-- ==== Sys2Proof/Word.lean ====
section
/-! DEFINITION. The word types of the machine (00_scope R5, R8): every value is unsigned, `bit 0` is the least significant (R7). -/

namespace Sys2Proof

/-- An 8-bit value: a general register, a timer, a memory cell (R5 `XLEN`). -/
abbrev Byte := BitVec 8

/-- A 12-bit address: `I`, `PC`, a stack entry, `nnn`; its arithmetic wraps modulo 4096 (R5 `ADDR_BITS`, R27). -/
abbrev Addr := BitVec 12

/-- The 4-bit immediate `n` (R72). -/
abbrev Nibble := BitVec 4

/-- A 16-bit instruction word (R70). -/
abbrev Word := BitVec 16

/-- The index of a general register: all 16 values of a 4-bit field select one (R20). -/
abbrev Reg := Fin 16

/-- A key code 0..15 (R170). -/
abbrev Key := Fin 16

end Sys2Proof
end

