-- ==== Sys2Proof/Syntax.lean ====
section
/-! DEFINITION. The 35 instructions of spec/opcode_table.json (30_encoding R76), one constructor a row, in the table's order.
`x`, `y` are register fields, `n`, `nn`, `nnn` immediates (R72). -/

namespace Sys2Proof

inductive Instr where
  /-- SYS nnn (0nnn), R100 -/
  | sys (nnn : Addr)
  /-- CLS (00E0), R162 -/
  | cls
  /-- RET (00EE), R101 -/
  | ret
  /-- JP nnn (1nnn), R102 -/
  | jp (nnn : Addr)
  /-- CALL nnn (2nnn), R103 -/
  | call (nnn : Addr)
  /-- SE Vx, nn (3xnn), R104 -/
  | seImm (x : Reg) (nn : Byte)
  /-- SNE Vx, nn (4xnn), R105 -/
  | sneImm (x : Reg) (nn : Byte)
  /-- SE Vx, Vy (5xy0), R106 -/
  | seReg (x y : Reg)
  /-- LD Vx, nn (6xnn), R120 -/
  | ldImm (x : Reg) (nn : Byte)
  /-- ADD Vx, nn (7xnn), R121 -/
  | addImm (x : Reg) (nn : Byte)
  /-- LD Vx, Vy (8xy0), R122 -/
  | ldReg (x y : Reg)
  /-- OR Vx, Vy (8xy1), R123 -/
  | orReg (x y : Reg)
  /-- AND Vx, Vy (8xy2), R124 -/
  | andReg (x y : Reg)
  /-- XOR Vx, Vy (8xy3), R125 -/
  | xorReg (x y : Reg)
  /-- ADD Vx, Vy (8xy4), R126 -/
  | addReg (x y : Reg)
  /-- SUB Vx, Vy (8xy5), R127 -/
  | sub (x y : Reg)
  /-- SHR Vx (8xy6), R128; `y` is in the word and is read only when `SHIFT_SOURCE = Vy` -/
  | shr (x y : Reg)
  /-- SUBN Vx, Vy (8xy7), R129 -/
  | subn (x y : Reg)
  /-- SHL Vx (8xyE), R130; `y` as for SHR -/
  | shl (x y : Reg)
  /-- SNE Vx, Vy (9xy0), R107 -/
  | sneReg (x y : Reg)
  /-- LD I, nnn (Annn), R140 -/
  | ldI (nnn : Addr)
  /-- JP V0, nnn (Bnnn), R108 -/
  | jpV0 (nnn : Addr)
  /-- RND Vx, nn (Cxnn), R143 -/
  | rnd (x : Reg) (nn : Byte)
  /-- DRW Vx, Vy, n (Dxyn), R163 -/
  | drw (x y : Reg) (n : Nibble)
  /-- SKP Vx (Ex9E), R172 -/
  | skp (x : Reg)
  /-- SKNP Vx (ExA1), R173 -/
  | sknp (x : Reg)
  /-- LD Vx, DT (Fx07), R175 -/
  | ldVxDt (x : Reg)
  /-- LD Vx, K (Fx0A), R174 -/
  | ldVxK (x : Reg)
  /-- LD DT, Vx (Fx15), R176 -/
  | ldDtVx (x : Reg)
  /-- LD ST, Vx (Fx18), R177 -/
  | ldStVx (x : Reg)
  /-- ADD I, Vx (Fx1E), R141 -/
  | addI (x : Reg)
  /-- LD F, Vx (Fx29), R142 -/
  | ldF (x : Reg)
  /-- LD B, Vx (Fx33), R144 -/
  | ldB (x : Reg)
  /-- LD [I], Vx (Fx55), R146 -/
  | ldMemVx (x : Reg)
  /-- LD Vx, [I] (Fx65), R147 -/
  | ldVxMem (x : Reg)
  deriving DecidableEq, Repr

end Sys2Proof
end

