-- ==== Sys2Proof/Decode.lean ====
section
/-! DEFINITION. Decoding and encoding of the one 16-bit instruction word (30_encoding R70 to R80). The decoder is total: a word
that reaches no row of R76 is answered as an unknown encoding, by the name of the opcode space it lies in (R80). -/

namespace Sys2Proof

/-- The five spaces of R80 in which unknown encodings lie. -/
inductive UnknownSpace where
  /-- 5xyn, n != 0, under strict secondary decode -/
  | group5
  /-- 8xyn, n in 8, 9, A, B, C, D, F -/
  | group8
  /-- 9xyn, n != 0, under strict secondary decode -/
  | group9
  /-- Exnn, nn not in 9E, A1 -/
  | groupE
  /-- Fxnn, nn not one of the nine listed -/
  | groupF
  deriving DecidableEq, Repr

/-- What a word decodes to: one of the 35 operations, or `Unknown` (R75). -/
inductive Decoded where
  | instr (i : Instr)
  | unknown (u : UnknownSpace)
  deriving DecidableEq, Repr

/-! ### Fields (R72) -/

/-- `op` = bits 15:12. -/
def opField (w : Word) : Nibble := w.extractLsb' 12 4

/-- `x` = bits 11:8, as a register index. -/
def xField (w : Word) : Reg := (w.extractLsb' 8 4).toFin

/-- `y` = bits 7:4, as a register index. -/
def yField (w : Word) : Reg := (w.extractLsb' 4 4).toFin

/-- `n` = bits 3:0. -/
def nField (w : Word) : Nibble := w.extractLsb' 0 4

/-- `nn` = bits 7:0. -/
def nnField (w : Word) : Byte := w.extractLsb' 0 8

/-- `nnn` = bits 11:0. -/
def nnnField (w : Word) : Addr := w.extractLsb' 0 12

/-! ### The decoder (R75) -/

/-- `op` = 0: the whole word is compared with 0x00E0 and 0x00EE, else SYS (R78). -/
def decodeGroup0 (w : Word) : Decoded :=
  if w = 0x00E0#16 then .instr .cls
  else if w = 0x00EE#16 then .instr .ret
  else .instr (.sys (nnnField w))

/-- `op` = 5: selected on `n`; with `STRICT_LOW_NIBBLE = false` every `n` is SE Vx, Vy (R80). -/
def decodeGroup5 (strict : Bool) (w : Word) : Decoded :=
  if nField w = 0#4 ∨ strict = false then .instr (.seReg (xField w) (yField w))
  else .unknown .group5

/-- `op` = 8: selected on `n`. -/
def decodeGroup8 (w : Word) : Decoded :=
  let x := xField w
  let y := yField w
  match (nField w).toNat with
  | 0x0 => .instr (.ldReg x y)
  | 0x1 => .instr (.orReg x y)
  | 0x2 => .instr (.andReg x y)
  | 0x3 => .instr (.xorReg x y)
  | 0x4 => .instr (.addReg x y)
  | 0x5 => .instr (.sub x y)
  | 0x6 => .instr (.shr x y)
  | 0x7 => .instr (.subn x y)
  | 0xE => .instr (.shl x y)
  | _ => .unknown .group8

/-- `op` = 9: selected on `n`; as `op` = 5. -/
def decodeGroup9 (strict : Bool) (w : Word) : Decoded :=
  if nField w = 0#4 ∨ strict = false then .instr (.sneReg (xField w) (yField w))
  else .unknown .group9

/-- `op` = 0xE: selected on `nn`. -/
def decodeGroupE (w : Word) : Decoded :=
  if nnField w = 0x9E#8 then .instr (.skp (xField w))
  else if nnField w = 0xA1#8 then .instr (.sknp (xField w))
  else .unknown .groupE

/-- `op` = 0xF: selected on `nn`. -/
def decodeGroupF (w : Word) : Decoded :=
  let x := xField w
  let nn := nnField w
  if nn = 0x07#8 then .instr (.ldVxDt x)
  else if nn = 0x0A#8 then .instr (.ldVxK x)
  else if nn = 0x15#8 then .instr (.ldDtVx x)
  else if nn = 0x18#8 then .instr (.ldStVx x)
  else if nn = 0x1E#8 then .instr (.addI x)
  else if nn = 0x29#8 then .instr (.ldF x)
  else if nn = 0x33#8 then .instr (.ldB x)
  else if nn = 0x55#8 then .instr (.ldMemVx x)
  else if nn = 0x65#8 then .instr (.ldVxMem x)
  else .unknown .groupF

/-- The decode procedure of R75, under the parameter `STRICT_LOW_NIBBLE`. -/
def decode (strict : Bool) (w : Word) : Decoded :=
  match (opField w).toNat with
  | 0x0 => decodeGroup0 w
  | 0x1 => .instr (.jp (nnnField w))
  | 0x2 => .instr (.call (nnnField w))
  | 0x3 => .instr (.seImm (xField w) (nnField w))
  | 0x4 => .instr (.sneImm (xField w) (nnField w))
  | 0x5 => decodeGroup5 strict w
  | 0x6 => .instr (.ldImm (xField w) (nnField w))
  | 0x7 => .instr (.addImm (xField w) (nnField w))
  | 0x8 => decodeGroup8 w
  | 0x9 => decodeGroup9 strict w
  | 0xA => .instr (.ldI (nnnField w))
  | 0xB => .instr (.jpV0 (nnnField w))
  | 0xC => .instr (.rnd (xField w) (nnField w))
  | 0xD => .instr (.drw (xField w) (yField w) (nField w))
  | 0xE => decodeGroupE w
  | _ => decodeGroupF w   -- 0xF, the one value of 4 bits left

/-- The word in two bytes of memory: the byte at the lower address is the high byte (R51, R71). -/
def wordOfBytes (hi lo : Byte) : Word := hi ++ lo

/-- The byte at the lower address, `opcode[15:8]` (R71). -/
def highByte (w : Word) : Byte := w.extractLsb' 8 8

/-- The byte at the next address, `opcode[7:0]` (R71). -/
def lowByte (w : Word) : Byte := w.extractLsb' 0 8

/-- Decode the two bytes of an instruction as they lie in memory. -/
def decodeBytes (strict : Bool) (hi lo : Byte) : Decoded := decode strict (wordOfBytes hi lo)

/-! ### The encoder (R73, R76), `a ++ b` with `a` in the high bits (R7) -/

/-- A register index as a 4-bit field. -/
def regField (x : Reg) : Nibble := BitVec.ofFin x

/-- Format NNN. -/
def encodeNNN (op : Nibble) (nnn : Addr) : Word := op ++ nnn

/-- Format XNN, and format X with `nn` the secondary opcode. -/
def encodeXNN (op : Nibble) (x : Reg) (nn : Byte) : Word := op ++ regField x ++ nn

/-- Format XYN, and format XY with `n` the secondary opcode. -/
def encodeXYN (op : Nibble) (x y : Reg) (n : Nibble) : Word := op ++ regField x ++ regField y ++ n

/-- The word of an instruction (R76). -/
def encode : Instr → Word
  | .sys nnn => encodeNNN 0x0#4 nnn
  | .cls => 0x00E0#16
  | .ret => 0x00EE#16
  | .jp nnn => encodeNNN 0x1#4 nnn
  | .call nnn => encodeNNN 0x2#4 nnn
  | .seImm x nn => encodeXNN 0x3#4 x nn
  | .sneImm x nn => encodeXNN 0x4#4 x nn
  | .seReg x y => encodeXYN 0x5#4 x y 0x0#4
  | .ldImm x nn => encodeXNN 0x6#4 x nn
  | .addImm x nn => encodeXNN 0x7#4 x nn
  | .ldReg x y => encodeXYN 0x8#4 x y 0x0#4
  | .orReg x y => encodeXYN 0x8#4 x y 0x1#4
  | .andReg x y => encodeXYN 0x8#4 x y 0x2#4
  | .xorReg x y => encodeXYN 0x8#4 x y 0x3#4
  | .addReg x y => encodeXYN 0x8#4 x y 0x4#4
  | .sub x y => encodeXYN 0x8#4 x y 0x5#4
  | .shr x y => encodeXYN 0x8#4 x y 0x6#4
  | .subn x y => encodeXYN 0x8#4 x y 0x7#4
  | .shl x y => encodeXYN 0x8#4 x y 0xE#4
  | .sneReg x y => encodeXYN 0x9#4 x y 0x0#4
  | .ldI nnn => encodeNNN 0xA#4 nnn
  | .jpV0 nnn => encodeNNN 0xB#4 nnn
  | .rnd x nn => encodeXNN 0xC#4 x nn
  | .drw x y n => encodeXYN 0xD#4 x y n
  | .skp x => encodeXNN 0xE#4 x 0x9E#8
  | .sknp x => encodeXNN 0xE#4 x 0xA1#8
  | .ldVxDt x => encodeXNN 0xF#4 x 0x07#8
  | .ldVxK x => encodeXNN 0xF#4 x 0x0A#8
  | .ldDtVx x => encodeXNN 0xF#4 x 0x15#8
  | .ldStVx x => encodeXNN 0xF#4 x 0x18#8
  | .addI x => encodeXNN 0xF#4 x 0x1E#8
  | .ldF x => encodeXNN 0xF#4 x 0x29#8
  | .ldB x => encodeXNN 0xF#4 x 0x33#8
  | .ldMemVx x => encodeXNN 0xF#4 x 0x55#8
  | .ldVxMem x => encodeXNN 0xF#4 x 0x65#8

/-- The row's `mask` in R76. -/
def rowMask : Instr → Word
  | .cls => 0xFFFF#16
  | .ret => 0xFFFF#16
  | .sys _ | .jp _ | .call _ | .ldI _ | .jpV0 _ => 0xF000#16
  | .seImm _ _ | .sneImm _ _ | .ldImm _ _ | .addImm _ _ | .rnd _ _ | .drw _ _ _ => 0xF000#16
  | .seReg _ _ | .sneReg _ _ | .ldReg _ _ | .orReg _ _ | .andReg _ _ | .xorReg _ _ => 0xF00F#16
  | .addReg _ _ | .sub _ _ | .shr _ _ | .subn _ _ | .shl _ _ => 0xF00F#16
  | .skp _ | .sknp _ | .ldVxDt _ | .ldVxK _ | .ldDtVx _ | .ldStVx _ => 0xF0FF#16
  | .addI _ | .ldF _ | .ldB _ | .ldMemVx _ | .ldVxMem _ => 0xF0FF#16

/-- The row's `match` in R76. -/
def rowMatch : Instr → Word
  | .sys _ => 0x0000#16
  | .cls => 0x00E0#16
  | .ret => 0x00EE#16
  | .jp _ => 0x1000#16
  | .call _ => 0x2000#16
  | .seImm _ _ => 0x3000#16
  | .sneImm _ _ => 0x4000#16
  | .seReg _ _ => 0x5000#16
  | .ldImm _ _ => 0x6000#16
  | .addImm _ _ => 0x7000#16
  | .ldReg _ _ => 0x8000#16
  | .orReg _ _ => 0x8001#16
  | .andReg _ _ => 0x8002#16
  | .xorReg _ _ => 0x8003#16
  | .addReg _ _ => 0x8004#16
  | .sub _ _ => 0x8005#16
  | .shr _ _ => 0x8006#16
  | .subn _ _ => 0x8007#16
  | .shl _ _ => 0x800E#16
  | .sneReg _ _ => 0x9000#16
  | .ldI _ => 0xA000#16
  | .jpV0 _ => 0xB000#16
  | .rnd _ _ => 0xC000#16
  | .drw _ _ _ => 0xD000#16
  | .skp _ => 0xE09E#16
  | .sknp _ => 0xE0A1#16
  | .ldVxDt _ => 0xF007#16
  | .ldVxK _ => 0xF00A#16
  | .ldDtVx _ => 0xF015#16
  | .ldStVx _ => 0xF018#16
  | .addI _ => 0xF01E#16
  | .ldF _ => 0xF029#16
  | .ldB _ => 0xF033#16
  | .ldMemVx _ => 0xF055#16
  | .ldVxMem _ => 0xF065#16

/-! ### The opcode table's words -/

/-- The word the table's numbering writes `w` on `nbits` bits; bits above `nbits` are 0. -/
def tableWord (nbits w : Nat) : Word := BitVec.ofNat 16 (w % 2 ^ nbits)

/-- The instruction the decoder reads from a word numbered as spec/opcode_table.json numbers it. The word is laid out as
memory holds it, high byte first (R71). No row's word depends on `STRICT_LOW_NIBBLE`; the recommended `true` is used. -/
def decodeTableWord (nbits w : Nat) : Option Instr :=
  match decodeBytes true (highByte (tableWord nbits w)) (lowByte (tableWord nbits w)) with
  | .instr i => some i
  | .unknown _ => none

end Sys2Proof
end

