-- ==== Sys2Proof/Config.lean ====
section
/-! DEFINITION. The configuration parameters of 00_scope R6 and the machine's one free value (R143).
A machine carries one `Config` for good: no instruction and no host operation writes it (log 1). -/

namespace Sys2Proof

/-- `SHIFT_SOURCE`: the register SHR and SHL read (R6, R128; decision D5). -/
inductive ShiftSource where
  | vx
  | vy
  deriving DecidableEq, Repr

/-- `VF_DEST_POLICY`: what a flag-writing instruction with x = 15 leaves in VF (R6, R131; decision D4). -/
inductive VfDestPolicy where
  | resultLast
  | flagLast
  | refuse
  deriving DecidableEq, Repr

/-- `KEY_RANGE_POLICY`: SKP and SKNP with V[x] > 15 (R6, R172; decision D21). -/
inductive KeyRangePolicy where
  | notPressed
  | maskLowNibble
  | refuse
  deriving DecidableEq, Repr

/-- `STACK_FAULT_POLICY`: CALL at SP = 16 and RET at SP = 0 (R6; decision D14).
The spec names `clamp` and `wrap` and specifies only `fault` (93 U1). -/
inductive StackFaultPolicy where
  | fault
  | clamp
  | wrap
  deriving DecidableEq, Repr

/-- The 80 font bytes, 16 glyphs of 5 (R57). -/
abbrev Font := Vector Byte 80

/-- The Display's pixels, `fb[py][px]`: row `py`, bit `px` of it, 1 = on (R161). -/
abbrev Framebuffer := Vector (BitVec 64) 32

/-- The Input's key levels, `keys[k]`, true = down (R171). -/
abbrev KeyLevels := Vector Bool 16

/-- The parameters of R6 that the model takes as an argument. -/
structure Config where
  /-- `SHIFT_SOURCE` -/
  shiftSource : ShiftSource
  /-- `VF_DEST_POLICY` -/
  vfDest : VfDestPolicy
  /-- `STRICT_LOW_NIBBLE` -/
  strictLowNibble : Bool
  /-- `KEY_RANGE_POLICY` -/
  keyRange : KeyRangePolicy
  /-- `STACK_FAULT_POLICY` -/
  stackFault : StackFaultPolicy
  /-- `FONT[0..79]`, legal when its first five bytes are DOC0's digit 0 -/
  font : Font
  /-- `SPEED_INIT`, legal when at least 1 -/
  speedInit : Nat
  /-- `DISPLAY_INIT` -/
  displayInit : Framebuffer
  deriving DecidableEq, Repr

/-- The digit-0 glyph, which DOC0 fixes (R6, R57): `FONT[0..4]` = F0 90 90 90 F0. -/
def digitZeroGlyph : Vector Byte 5 := #v[0xF0, 0x90, 0x90, 0x90, 0xF0]

/-- `FONT[0..4]` holds the digit-0 glyph (R6, R57). -/
def fontLegal (font : Font) : Bool := decide (∀ k : Fin 5, font[k.val] = digitZeroGlyph[k.val])

/-- The two legality conditions of R6 that the field types do not already force: `SPEED_INIT` is at least 1, and `FONT[0..4]`
is fixed. -/
def Config.legal (c : Config) : Bool := decide (1 ≤ c.speedInit) && fontLegal c.font

/-- FREE VALUE (R143, 93 U9; log 13): the byte the random source returns to the n-th `Rnd()` transaction.
It has no body: a claim about it holds whatever the source returns. -/
opaque randomByte : Nat → Byte

end Sys2Proof
end

