-- ==== Sys2Proof/Machine/Defaults.lean ====
section
/-! DEFINITION. The value this hardware takes for every parameter of 00_scope R6 for which the spec recommends one, and the
values the model names where it recommends none (logs 10, 11). -/

namespace Sys2Proof.Machine

/-- The default font of R57: glyph 0 is DOC0's, the other 75 bytes are the spec's conventional ones (decision D28; log 14). -/
def defaultFont : Font := #v[
  0xF0, 0x90, 0x90, 0x90, 0xF0,   -- 0
  0x20, 0x60, 0x20, 0x20, 0x70,   -- 1
  0xF0, 0x10, 0xF0, 0x80, 0xF0,   -- 2
  0xF0, 0x10, 0xF0, 0x10, 0xF0,   -- 3
  0x90, 0x90, 0xF0, 0x10, 0x10,   -- 4
  0xF0, 0x80, 0xF0, 0x10, 0xF0,   -- 5
  0xF0, 0x80, 0xF0, 0x90, 0xF0,   -- 6
  0xF0, 0x10, 0x20, 0x40, 0x40,   -- 7
  0xF0, 0x90, 0xF0, 0x90, 0xF0,   -- 8
  0xF0, 0x90, 0xF0, 0x10, 0xF0,   -- 9
  0xF0, 0x90, 0xF0, 0x90, 0x90,   -- A
  0xE0, 0x90, 0xE0, 0x90, 0xE0,   -- B
  0xF0, 0x80, 0x80, 0x80, 0xF0,   -- C
  0xE0, 0x90, 0x90, 0x90, 0xE0,   -- D
  0xF0, 0x80, 0xF0, 0x80, 0xF0,   -- E
  0xF0, 0x80, 0xF0, 0x80, 0x80]   -- F

/-- The recommended parameter values of R6. `speedInit` (log 10) and `displayInit` (log 11) are DESIGN CHOICES: the spec
leaves them open. -/
def defaultConfig : Config where
  shiftSource := .vx
  vfDest := .resultLast
  strictLowNibble := true
  keyRange := .notPressed
  stackFault := .fault
  font := defaultFont
  speedInit := 1
  displayInit := Vector.replicate 32 0#64

/-- Key levels at power-on: none down. DESIGN CHOICE (log 12): the environment's, with no value in the spec (R40, R261). -/
def noKeysDown : KeyLevels := Vector.replicate 16 false

end Sys2Proof.Machine
end

