-- ==== Sys2Proof/Machine/State.lean ====
section
/-! DEFINITION. The state of the machine (10_state), the reasons a step can stop, and the state right after power-on. -/

namespace Sys2Proof.Machine

/-- Execution mode (R31). -/
inductive Mode where
  | running
  /-- LD Vx,K is waiting; the key code goes to V[x]. -/
  | awaitingKey (x : Reg)
  deriving DecidableEq, Repr

/-- The fault latch (R35, R222): codes 0, 1, 2. -/
inductive FaultLatch where
  | none
  | stackOverflow
  | stackUnderflow
  deriving DecidableEq, Repr

/-- Memory as the cells that differ from the reset contents: addresses strictly rising, below 4096, no entry equal to what an
unlisted address reads as (Machine/Memory.lean: `resetByte`, `Memory.wf`). -/
abbrev Memory := List Host.Cell

structure State where
  /-- V[0]..V[15], VF = V[15] (R20, R21) -/
  v : Vector Byte 16
  /-- I (R22) -/
  i : Addr
  /-- PC (R25) -/
  pc : Addr
  /-- stack[0..15] (R23) -/
  stack : Vector Addr 16
  /-- SP, the count of entries in use, 0..16 (R24) -/
  sp : Fin 17
  /-- DT, the delay timer (R29) -/
  dt : Byte
  /-- ST, the sound timer (R30) -/
  st : Byte
  /-- mode (R31) -/
  mode : Mode
  /-- user_paused (R32) -/
  userPaused : Bool
  /-- speed, instruction cycles a tick (R34) -/
  speed : Nat
  /-- fault (R35) -/
  fault : FaultLatch
  /-- mem, 4096 bytes (R37) -/
  mem : Memory
  /-- sound_on as last sampled (R204) -/
  soundOn : Bool
  /-- fb[py][px], the Display's reference state: environment (R38, R161) -/
  fb : Framebuffer
  /-- keys[0..15], the Input's reference state: environment (R38, R171) -/
  keys : KeyLevels
  /-- the model's own: how many `Rnd()` transactions were made (R143; log 13) -/
  draws : Nat
  /-- the model's own: the machine's parameters, never written (R6, R41; log 1) -/
  config : Config
  deriving DecidableEq, Repr

/-- Faults: the machine stops. The two exceptions of R222 are NOT here: the spec describes their entry, so CALL and RET take
them as a next state with the latch set (R223; log 3). -/
inductive Fault where
  /-- Raised by CALL at SP = 16 and RET at SP = 0 when `STACK_FAULT_POLICY` is `clamp` or `wrap`, which the spec names and does
  not specify (93 U1). Safe: the model stops where such a machine would go on (log 5). -/
  | stackPolicyOpen (p : StackFaultPolicy)
  deriving DecidableEq, Repr

/-- Refusals: no meaning. -/
inductive Refusal where
  /-- Raised by `exec` for an instruction without a meaning: none is left. Safe. -/
  | notModelled (mnemonic : String)
  /-- Raised by 8xy4, 8xy5, 8xy6, 8xy7, 8xyE with x = 15 when `VF_DEST_POLICY = refuse`, which gives them no meaning (R131).
  Safe (log 6). -/
  | vfDestination
  /-- Raised by SKP and SKNP with V[x] > 15 when `KEY_RANGE_POLICY = refuse`, which gives the case no meaning (R172).
  Safe (log 9). -/
  | keyOutOfRange
  deriving DecidableEq, Repr

/-- What an instruction, a cycle or a host operation answers. -/
abbrev Result := Host.Outcome State Fault Refusal

/-- The machine right after power-on with the recommended parameters (R40, R260, R261). `speed`, `fb`, `keys`, `draws` have no
value in the spec: DESIGN CHOICES of logs 10 to 13. -/
def State.reset : State where
  v := Vector.replicate 16 0x00#8
  i := 0x000#12
  pc := 0x200#12
  stack := Vector.replicate 16 0x000#12
  sp := 0
  dt := 0x00#8
  st := 0x00#8
  mode := .running
  userPaused := false
  speed := defaultConfig.speedInit
  fault := .none
  mem := []
  soundOn := false
  fb := defaultConfig.displayInit
  keys := noKeysDown
  draws := 0
  config := defaultConfig

end Sys2Proof.Machine
end

