-- ==== Sys2Proof/Machine/Memory.lean ====
section
/-! DEFINITION. The 4096 bytes of memory (20_memory) as a canonical list of the cells that differ from the reset contents. -/

namespace Sys2Proof.Machine

/-- What an unlisted address reads as: the reset contents of R40 and R56, the font at 0x050..0x09F and 0x00 elsewhere. -/
def resetByte (font : Font) (a : Nat) : Byte :=
  if h : 0x050 ≤ a ∧ a < 0x0A0 then font[a - 0x050]'(by omega) else 0x00#8

/-- The byte listed at `a`, if one is. -/
def memLookup : Memory → Nat → Option Byte
  | [], _ => none
  | (b, v) :: m, a => if a = b then some v else memLookup m a

/-- List `v` at `a`, in address order. -/
def memInsert : Memory → Nat → Byte → Memory
  | [], a, v => [(a, v)]
  | (b, w) :: m, a, v =>
    if a < b then (a, v) :: (b, w) :: m
    else if a = b then (a, v) :: m
    else (b, w) :: memInsert m a v

/-- List nothing at `a`. -/
def memErase : Memory → Nat → Memory
  | [], _ => []
  | (b, w) :: m, a => if a = b then memErase m a else (b, w) :: memErase m a

/-- Write one cell, keeping the canonical form: the value an unlisted address reads as is not listed. -/
def memWrite (font : Font) (m : Memory) (a : Nat) (v : Byte) : Memory :=
  if v = resetByte font a then memErase m a else memInsert m a v

/-- The canonical form from address `lo` on: strictly rising, below 4096, no entry equal to the reset contents. -/
def memWfFrom (font : Font) : Nat → Memory → Bool
  | _, [] => true
  | lo, (a, v) :: m => decide (lo ≤ a) && decide (a < 4096) && (v != resetByte font a) && memWfFrom font (a + 1) m

/-- The canonical form of memory. -/
def Memory.wf (font : Font) (m : Memory) : Bool := memWfFrom font 0 m

/-- `MemRead(a, 1)` (R9, R50); an `Addr` is already reduced modulo 4096. A read has no side effect and never fails (R55, R58). -/
def readByte (s : State) (a : Addr) : Byte :=
  (memLookup s.mem a.toNat).getD (resetByte s.config.font a.toNat)

/-- `MemWrite(a, 1, v)` (R9, R50): one cell changes; no address is protected (R58). -/
def writeByte (s : State) (a : Addr) (v : Byte) : State :=
  { s with mem := memWrite s.config.font s.mem a.toNat v }

/-- Byte writes at consecutive addresses in ascending order, each wrapped modulo 4096 (R52, R54). -/
def writeBytes (s : State) (a : Addr) : List Byte → State
  | [] => s
  | v :: vs => writeBytes (writeByte s a v) (a + 1#12) vs

end Sys2Proof.Machine
end

