-- ==== Sys2Proof/Machine/Ops.lean ====
section
/-! DEFINITION. The named operations over registers, PC, return stack, ports and timers; entering an exception; the gate and
the sound sample. State not named by an operation is unchanged by it (R11). -/

namespace Sys2Proof.Machine

/-! ### Outcomes -/

/-- Go on from a next state; a fault or a refusal stands. -/
def bindNext (r : Result) (f : State → Result) : Result :=
  match r with
  | .next s => f s
  | .fault e => .fault e
  | .refused e => .refused e

/-! ### General registers (R20) -/

/-- VF, general register 15, the flag register (R21). -/
def flagReg : Reg := 15

/-- `V[x]` (R9). -/
def readReg (s : State) (x : Reg) : Byte := s.v[x.val]

/-- `V[x] <- b` (R9). -/
def writeReg (s : State) (x : Reg) (b : Byte) : State := { s with v := s.v.set x.val b }

/-! ### Index register, program counter -/

/-- `I <- a` (R22). -/
def setI (s : State) (a : Addr) : State := { s with i := a }

/-- `PC <- a` (R9, R27). -/
def setPc (s : State) (a : Addr) : State := { s with pc := a }

/-- `PC <- (PC + 2) & 0xFFF`, of every cycle and of a taken skip (R26, R27). -/
def advancePc (s : State) : State := setPc s (s.pc + 2#12)

/-- Skip the next word when the condition holds (R104): it is not fetched, not decoded. -/
def skipIf (c : Bool) (s : State) : State := if c then advancePc s else s

/-! ### Return stack (R23, R24) -/

/-- `stack[SP] <- PC; SP <- SP + 1`. -/
def pushReturn (s : State) (h : s.sp.val < 16) : State :=
  { s with stack := s.stack.set s.sp.val s.pc, sp := ⟨s.sp.val + 1, by omega⟩ }

/-- The entry on top, `stack[SP - 1]`, of a stack that is not empty. -/
def topOfStack (s : State) : Addr := s.stack[s.sp.val - 1]'(by omega)

/-- `SP <- SP - 1`; the slot keeps its content (R23, decision D36). -/
def popReturn (s : State) : State := { s with sp := ⟨s.sp.val - 1, by omega⟩ }

/-! ### Timers -/

/-- `DT <- b` (R29). -/
def setDt (s : State) (b : Byte) : State := { s with dt := b }

/-- `ST <- b` (R30). -/
def setSt (s : State) (b : Byte) : State := { s with st := b }

/-- One timer, one tick: down by exactly 1 if above 0, never below 0 (R196). -/
def countDown (b : Byte) : Byte := if b = 0x00#8 then b else b - 1#8

/-- Both timers, one tick (R196). -/
def decrementTimers (s : State) : State := setSt (setDt s (countDown s.dt)) (countDown s.st)

/-! ### Mode and scheduler state -/

/-- `mode <- m` (R31). -/
def setMode (s : State) (m : Mode) : State := { s with mode := m }

/-- `key_wait_armed`: 1 exactly while a key-wait is pending (R31, R170). -/
def keyWaitArmed (s : State) : Bool :=
  match s.mode with
  | .running => false
  | .awaitingKey _ => true

/-- The halted condition, `fault != None` (R223). -/
def halted (s : State) : Bool := s.fault != .none

/-- The cycle gate of R191, `fault = None` and `mode = Running`; the user pause is not part of it. -/
def gateOpen (s : State) : Bool := !halted s && !keyWaitArmed s

/-- The condition of R195 for a cycle slot and for the decrement: gate open and not paused by the user. -/
def running (s : State) : Bool := gateOpen s && !s.userPaused

/-- `sched_state` of R33. -/
inductive SchedState where
  | running
  | paused
  deriving DecidableEq, Repr

/-- R33: PAUSED if `user_paused = 1` or `mode != Running`, else RUNNING. -/
def schedState (s : State) : SchedState :=
  if s.userPaused || keyWaitArmed s then .paused else .running

/-- `sound_on <- (ST != 0)` (R204). -/
def sampleSound (s : State) : State := { s with soundOn := s.st != 0x00#8 }

/-! ### Exceptions (R220 to R224) -/

/-- The cause code of the latch (R222). -/
def faultCode : FaultLatch → Nat
  | .none => 0
  | .stackOverflow => 1
  | .stackUnderflow => 2

/-- `fault <- e` (R35). -/
def setFault (s : State) (e : FaultLatch) : State := { s with fault := e }

/-- `raise E` of an execute phase: `fault <- E` and nothing else; PC keeps the cycle's advance, control goes nowhere, and the
gate is closed from then on (R223). There is no return from it: only `hostReset` (Machine/Scheduler.lean) clears the latch
(R224). Under a `STACK_FAULT_POLICY` the spec names and does not specify, the machine stops (93 U1; log 5). -/
def takeException (e : FaultLatch) (s : State) : Result :=
  match s.config.stackFault with
  | .fault => .next (setFault s e)
  | .clamp => .fault (.stackPolicyOpen .clamp)
  | .wrap => .fault (.stackPolicyOpen .wrap)

/-- The address of a faulting instruction, `(PC - 2) & 0xFFF`, recoverable while halted (R220). -/
def faultingAddress (s : State) : Addr := s.pc - 2#12

/-! ### Ports -/

/-- A pixel's coordinates (px, py) (R38, R160). -/
abbrev Pixel := Fin 64 × Fin 32

/-- `fb[py][px]`. -/
def pixelOn (fb : Framebuffer) (p : Pixel) : Bool := fb[p.2.val].getLsbD p.1.val

/-- `DisplayToggle(px, py) -> was_on`, with the framebuffer after it (R160, R161). -/
def displayToggle (fb : Framebuffer) (p : Pixel) : Bool × Framebuffer :=
  (pixelOn fb p, fb.set p.2.val (fb[p.2.val] ^^^ BitVec.twoPow 64 p.1.val))

/-- A sequence of toggle transactions in order: whether any answered `was_on`, and the framebuffer after all. -/
def toggleAll (fb : Framebuffer) : List Pixel → Bool × Framebuffer
  | [] => (false, fb)
  | p :: ps =>
    let first := displayToggle fb p
    let rest := toggleAll first.2 ps
    (first.1 || rest.1, rest.2)

/-- `fb` replaced. -/
def setFb (s : State) (fb : Framebuffer) : State := { s with fb := fb }

/-- `DisplayClear()`: every pixel off (R160, R161). -/
def displayClear (s : State) : State := setFb s (Vector.replicate 32 0#64)

/-- `KeyPressed(k)` of the reference Input (R170, R171). -/
def keyPressed (s : State) (k : Key) : Bool := s.keys[k.val]

/-- The environment sets the level of key `k` (R171). -/
def setKeyLevel (s : State) (k : Key) (down : Bool) : State := { s with keys := s.keys.set k.val down }

/-- The byte the next `Rnd()` answers: free (R143; log 13). -/
def nextRandom (s : State) : Byte := randomByte s.draws

/-- One `Rnd()` transaction made. -/
def countDraw (s : State) : State := { s with draws := s.draws + 1 }

end Sys2Proof.Machine
end

