-- ==== Sys2Proof/Machine/Operands.lean ====
section
/-! DEFINITION. The operand forms: what an instruction reads before it writes (R39: every operand is latched first). -/

namespace Sys2Proof.Machine

/-- The one data addressing mode: `(I + k) & 0xFFF` (R145). -/
def dataAddress (s : State) (k : Nat) : Addr := s.i + BitVec.ofNat 12 k

/-- The value a shift reads: `V[x]`, or `V[y]` when `SHIFT_SOURCE = Vy` (R128, R130). -/
def shiftOperand (s : State) (x y : Reg) : Byte :=
  match s.config.shiftSource with
  | .vx => readReg s x
  | .vy => readReg s y

/-- `0x050 + V[x] * 5`, of the whole 8-bit value (R142). -/
def glyphAddress (b : Byte) : Addr := 0x050#12 + b.zeroExtend 12 * 5#12

/-- The registers `V[0]..V[x]` in ascending order (R146, R147). -/
def regsThrough (x : Reg) : List Reg :=
  [0, 1, 2, 3, 4, 5, 6, 7, 8, 9, 10, 11, 12, 13, 14, 15].take (x.val + 1)

/-- Hundreds, tens and ones of a byte, one binary digit a byte (R144). -/
def decimalDigits (b : Byte) : List Byte :=
  [BitVec.ofNat 8 (b.toNat / 100), BitVec.ofNat 8 (b.toNat / 10 % 10), BitVec.ofNat 8 (b.toNat % 10)]

/-- The key code in the low four bits of a byte. -/
def keyCode (b : Byte) : Key := (b.extractLsb' 0 4).toFin

/-- The answer SKP and SKNP act on for the byte `V[x]`: a query for codes 0..15; above that what `KEY_RANGE_POLICY` says, and
`none` where it gives the case no meaning (R172). -/
def keyAnswer (s : State) (b : Byte) : Option Bool :=
  if b.toNat ≤ 15 then some (keyPressed s (keyCode b))
  else
    match s.config.keyRange with
    | .notPressed => some false
    | .maskLowNibble => some (keyPressed s (keyCode b))
    | .refuse => none

/-- The n sprite bytes at `I`, wrapped modulo 4096 (R163). -/
def spriteBytes (s : State) (n : Nibble) : List Byte :=
  (List.range n.toNat).map fun r => readByte s (dataAddress s r)

/-- A coordinate reduced into the screen, each on its own: `(x mod 64, y mod 32)` (R163). -/
def wrapPixel (x y : Nat) : Pixel := (Fin.ofNat 64 x, Fin.ofNat 32 y)

/-- The pixels one row byte toggles, left to right: bit 7 is the leftmost (R163). -/
def rowPixels (x0 y : Nat) (row : Byte) : List Pixel :=
  ((List.range 8).filter fun c => row.getLsbD (7 - c)).map fun c => wrapPixel (x0 + c) y

/-- The toggle transactions of a sprite in the order the port sees them: rows ascending (R163). -/
def spritePixels (x0 y0 : Nat) : List Byte → List Pixel
  | [] => []
  | row :: rows => rowPixels x0 y0 row ++ spritePixels x0 (y0 + 1) rows

/-- The transactions of `DRW Vx, Vy, n`, from the latched `V[x]`, `V[y]`, `I` (R163). -/
def drawTransactions (s : State) (x y : Reg) (n : Nibble) : List Pixel :=
  spritePixels (readReg s x).toNat (readReg s y).toNat (spriteBytes s n)

end Sys2Proof.Machine
end

