-- ==== Sys2Proof/Machine/Flags.lean ====
section
/-! DEFINITION. Every flag computation (R21) and the order of the flag write and the result write (R131). -/

namespace Sys2Proof.Machine

/-- A flag as the 8-bit value 0x00 or 0x01 (R21). -/
def flagByte (c : Bool) : Byte := if c then 0x01#8 else 0x00#8

/-- Carry of ADD Vx,Vy: 1 iff the sum exceeds 255 (R126). -/
def carryFlag (a b : Byte) : Byte := flagByte (decide (255 < a.toNat + b.toNat))

/-- Not-borrow of `minuend - subtrahend`: 1 iff minuend ≥ subtrahend (R127, R129). -/
def notBorrowFlag (minuend subtrahend : Byte) : Byte := flagByte (decide (subtrahend.toNat ≤ minuend.toNat))

/-- The bit SHR shifts out, `v & 1` (R128). -/
def shiftedOutRight (v : Byte) : Byte := v &&& 0x01#8

/-- The bit SHL shifts out, `(v & 0x80) >> 7` (R130). -/
def shiftedOutLeft (v : Byte) : Byte := (v &&& 0x80#8) >>> 7

/-- The two writes of a flag-writing instruction, both values computed before either (R39, R131): with x ≠ 15 the order does
not show; with x = 15 `VF_DEST_POLICY` decides what VF keeps. -/
def writeResultAndFlag (s : State) (x : Reg) (result flag : Byte) : Result :=
  match s.config.vfDest with
  | .resultLast => .next (writeReg (writeReg s flagReg flag) x result)
  | .flagLast => .next (writeReg (writeReg s x result) flagReg flag)
  | .refuse =>
    if x = flagReg then .refused .vfDestination
    else .next (writeReg (writeReg s flagReg flag) x result)

end Sys2Proof.Machine
end

