-- ==== Sys2Proof/Machine/Alu.lean ====
section
/-! DEFINITION. Register loads and arithmetic (41_alu). Results wrap modulo 256 (R132). -/

namespace Sys2Proof.Machine

/-- LD Vx, nn (R120). -/
def execLdImm (x : Reg) (nn : Byte) (s : State) : Result := .next (writeReg s x nn)

/-- ADD Vx, nn (R121): VF is not written as a flag. -/
def execAddImm (x : Reg) (nn : Byte) (s : State) : Result := .next (writeReg s x (readReg s x + nn))

/-- LD Vx, Vy (R122). -/
def execLdReg (x y : Reg) (s : State) : Result := .next (writeReg s x (readReg s y))

/-- OR Vx, Vy (R123): VF is not written as a flag. -/
def execOr (x y : Reg) (s : State) : Result := .next (writeReg s x (readReg s x ||| readReg s y))

/-- AND Vx, Vy (R124): VF is not written as a flag. -/
def execAnd (x y : Reg) (s : State) : Result := .next (writeReg s x (readReg s x &&& readReg s y))

/-- XOR Vx, Vy (R125): VF is not written as a flag. -/
def execXor (x y : Reg) (s : State) : Result := .next (writeReg s x (readReg s x ^^^ readReg s y))

/-- ADD Vx, Vy (R126). -/
def execAddReg (x y : Reg) (s : State) : Result :=
  let a := readReg s x
  let b := readReg s y
  writeResultAndFlag s x (a + b) (carryFlag a b)

/-- SUB Vx, Vy (R127). -/
def execSub (x y : Reg) (s : State) : Result :=
  let a := readReg s x
  let b := readReg s y
  writeResultAndFlag s x (a - b) (notBorrowFlag a b)

/-- SHR Vx (R128). -/
def execShr (x y : Reg) (s : State) : Result :=
  let v := shiftOperand s x y
  writeResultAndFlag s x (v >>> 1) (shiftedOutRight v)

/-- SUBN Vx, Vy (R129). -/
def execSubn (x y : Reg) (s : State) : Result :=
  let a := readReg s x
  let b := readReg s y
  writeResultAndFlag s x (b - a) (notBorrowFlag b a)

/-- SHL Vx (R130). -/
def execShl (x y : Reg) (s : State) : Result :=
  let v := shiftOperand s x y
  writeResultAndFlag s x (v <<< 1) (shiftedOutLeft v)

end Sys2Proof.Machine
end

