-- ==== Sys2Proof/Machine/Control.lean ====
section
/-! DEFINITION. Control flow (40_control_flow): the execute phase, PC already advanced past the instruction. -/

namespace Sys2Proof.Machine

/-- SYS nnn (R100): a no-op. -/
def execSys (_nnn : Addr) (s : State) : Result := .next s

/-- RET (R101). -/
def execRet (s : State) : Result :=
  if s.sp.val = 0 then takeException .stackUnderflow s
  else .next (setPc (popReturn s) (topOfStack s))

/-- JP nnn (R102). -/
def execJp (nnn : Addr) (s : State) : Result := .next (setPc s nnn)

/-- CALL nnn (R103). -/
def execCall (nnn : Addr) (s : State) : Result :=
  if h : s.sp.val = 16 then takeException .stackOverflow s
  else .next (setPc (pushReturn s (by omega)) nnn)

/-- SE Vx, nn (R104). -/
def execSeImm (x : Reg) (nn : Byte) (s : State) : Result := .next (skipIf (readReg s x == nn) s)

/-- SNE Vx, nn (R105). -/
def execSneImm (x : Reg) (nn : Byte) (s : State) : Result := .next (skipIf (readReg s x != nn) s)

/-- SE Vx, Vy (R106). -/
def execSeReg (x y : Reg) (s : State) : Result := .next (skipIf (readReg s x == readReg s y) s)

/-- SNE Vx, Vy (R107). -/
def execSneReg (x y : Reg) (s : State) : Result := .next (skipIf (readReg s x != readReg s y) s)

/-- JP V0, nnn (R108): `PC <- (nnn + V[0]) & 0xFFF`. -/
def execJpV0 (nnn : Addr) (s : State) : Result := .next (setPc s (nnn + (readReg s 0).zeroExtend 12))

end Sys2Proof.Machine
end

