-- ==== Sys2Proof/Machine/Display.lean ====
section
/-! DEFINITION. The instructions that use the Display port (43_display). -/

namespace Sys2Proof.Machine

/-- CLS (R162): VF is not written. -/
def execCls (s : State) : Result := .next (displayClear s)

/-- DRW Vx, Vy, n (R163): VF is 1 iff some toggle answered `was_on`; `I` and memory are unchanged (R164). -/
def execDrw (x y : Reg) (n : Nibble) (s : State) : Result :=
  let drawn := toggleAll s.fb (drawTransactions s x y n)
  .next (writeReg (setFb s drawn.2) flagReg (flagByte drawn.1))

end Sys2Proof.Machine
end

