-- ==== Sys2Proof/Machine/Index.lean ====
section
/-! DEFINITION. Index register, random, decimal and bulk transfer (42_index_random_memory). None writes VF as a flag; the last
three leave `I` unchanged (R145). -/

namespace Sys2Proof.Machine

/-- LD I, nnn (R140). -/
def execLdI (nnn : Addr) (s : State) : Result := .next (setI s nnn)

/-- ADD I, Vx (R141): modulo 4096, no flag. -/
def execAddI (x : Reg) (s : State) : Result := .next (setI s (s.i + (readReg s x).zeroExtend 12))

/-- LD F, Vx (R142). -/
def execLdF (x : Reg) (s : State) : Result := .next (setI s (glyphAddress (readReg s x)))

/-- RND Vx, nn (R143): exactly one `Rnd()` transaction. -/
def execRnd (x : Reg) (nn : Byte) (s : State) : Result :=
  .next (countDraw (writeReg s x (nextRandom s &&& nn)))

/-- LD B, Vx (R144). -/
def execLdB (x : Reg) (s : State) : Result := .next (writeBytes s s.i (decimalDigits (readReg s x)))

/-- LD [I], Vx (R146): `V[k]` to `I + k` for k = 0..x. -/
def execLdMemVx (x : Reg) (s : State) : Result :=
  .next (writeBytes s s.i ((regsThrough x).map (readReg s)))

/-- LD Vx, [I] (R147): `V[k]` from `I + k` for k = 0..x. -/
def execLdVxMem (x : Reg) (s : State) : Result :=
  .next ((regsThrough x).foldl (fun t k => writeReg t k (readByte s (dataAddress s k.val))) s)

end Sys2Proof.Machine
end

