-- ==== Sys2Proof/Machine/Input.lean ====
section
/-! DEFINITION. Key and timer instructions (44_input_timers). None writes VF as a flag. -/

namespace Sys2Proof.Machine

/-- SKP Vx (R172): skip if the key is down. -/
def execSkp (x : Reg) (s : State) : Result :=
  match keyAnswer s (readReg s x) with
  | some p => .next (skipIf p s)
  | none => .refused .keyOutOfRange

/-- SKNP Vx (R173): skip if the key is not down. -/
def execSknp (x : Reg) (s : State) : Result :=
  match keyAnswer s (readReg s x) with
  | some p => .next (skipIf (!p) s)
  | none => .refused .keyOutOfRange

/-- LD Vx, DT (R175). -/
def execLdVxDt (x : Reg) (s : State) : Result := .next (writeReg s x s.dt)

/-- LD Vx, K (R174): the key-press event writes the register later. -/
def execLdVxK (x : Reg) (s : State) : Result := .next (setMode s (.awaitingKey x))

/-- LD DT, Vx (R176). -/
def execLdDtVx (x : Reg) (s : State) : Result := .next (setDt s (readReg s x))

/-- LD ST, Vx (R177). -/
def execLdStVx (x : Reg) (s : State) : Result := .next (setSt s (readReg s x))

end Sys2Proof.Machine
end

