-- ==== Sys2Proof/Machine/Cycle.lean ====
section
/-! DEFINITION. The instruction cycle (45_cycle_scheduler R190), the host's `step()` (R198), and where a fetched word is
placed. -/

namespace Sys2Proof.Machine

/-- The two bytes at PC and PC + 1, the second address wrapped, big-endian (R51). -/
def fetchWord (s : State) : Word := wordOfBytes (readByte s s.pc) (readByte s (s.pc + 1#12))

/-- One instruction cycle, its gate taken as open: fetch, advance PC, decode, execute; an unknown encoding does nothing more
(R190, R80). -/
def cycle (s : State) : Result :=
  match decode s.config.strictLowNibble (fetchWord s) with
  | .instr i => exec i (advancePc s)
  | .unknown _ => .next (advancePc s)

/-- A cycle if the gate is open; otherwise no fetch, and nothing changes (R191). -/
def gatedCycle (s : State) : Result := if gateOpen s then cycle s else .next s

/-- `step()` (R198): one gated cycle, the user pause ignored, no timer decrement; then `sound_on` is sampled. -/
def hostStep (s : State) : Result := bindNext (gatedCycle s) fun t => .next (sampleSound t)

/-- The word `w` stored where the next cycle fetches, high byte at PC (R71). -/
def placeWord (s : State) (w : Word) : State :=
  writeByte (writeByte s s.pc (highByte w)) (s.pc + 1#12) (lowByte w)

/-- The gate of R191 opened: what a fetch needs beside its bytes. -/
def openGate (s : State) : State := { s with fault := .none, mode := .running }

end Sys2Proof.Machine
end

