-- ==== Sys2Proof/Machine/Step.lean ====
section
/-! DEFINITION. The machine's step is the host's `step()` (R10, R198): one instruction cycle (log 2). -/

namespace Sys2Proof.Machine

def step (s : State) : Host.Outcome State Fault Refusal := hostStep s

/-- `s` with the instruction of the opcode table's word `w` where the next step fetches, and the gate open (log 16). -/
def State.withFetchWord (s : State) (nbits w : Nat) : State := openGate (placeWord s (tableWord nbits w))

end Sys2Proof.Machine
end

