-- ==== Sys2Proof/Machine/Scheduler.lean ====
section
/-! DEFINITION. The tick and the host's operations (45_cycle_scheduler, 70_reset_and_hazards, 60_exceptions R236). Every one
but the tick acts at a boundary between two cycles, one at a time, and a boundary inside a tick is one of them (R10, R171, R203,
R228, D41; log 23). -/

namespace Sys2Proof.Machine

/-! ### The tick (R195) -/

/-- One cycle slot: a cycle if RUNNING, evaluated for this slot, else idle (R195, R197). -/
def slot (s : State) : Result := if running s then cycle s else .next s

/-- `k` cycle slots in a row. -/
def runSlots : Nat → State → Result
  | 0, s => .next s
  | k + 1, s => bindNext (slot s) (runSlots k)

/-- The decrement at the end of a tick, if RUNNING still holds then (R195, R196). -/
def tickTimers (s : State) : State := if running s then decrementTimers s else s

/-- `tick()` (R195): `speed` slots, one timer decrement, one sample of `sound_on`, in that order (R228). `tickAmid` below lets
operations act between its cycles. -/
def tick (s : State) : Result := bindNext (runSlots s.speed s) fun t => .next (sampleSound (tickTimers t))

/-! ### Key events (R199, R171) -/

/-- `key_press(k)` (R199): completes a pending key-wait; otherwise, and while halted, nothing. -/
def keyPress (k : Key) (s : State) : State :=
  match s.fault, s.mode with
  | .none, .awaitingKey x => setMode (writeReg s x (BitVec.ofNat 8 k.val)) .running
  | .none, .running => s
  | .stackOverflow, _ => s
  | .stackUnderflow, _ => s

/-- The environment presses key `k`: a 0-to-1 transition delivers `key_press(k)`, a key already down delivers nothing (R171). -/
def keyDown (k : Key) (s : State) : State :=
  if keyPressed s k then s else keyPress k (setKeyLevel s k true)

/-- The environment releases key `k`: no event (R171). -/
def keyUp (k : Key) (s : State) : State := setKeyLevel s k false

/-! ### Pause, speed, load, reset -/

/-- `pause()` (R201). -/
def pause (s : State) : State := { s with userPaused := true }

/-- `run()` (R201). -/
def run (s : State) : State := { s with userPaused := false }

/-- Why a host operation was rejected, with the state unchanged (R202, R226, R264). -/
inductive HostReject where
  /-- `loadProgram` of no bytes -/
  | emptyProgram
  /-- `loadProgram` of more than 3584 bytes -/
  | oversizedProgram
  /-- `setSpeed(n)` with n < 1 -/
  | speedBelowOne
  deriving DecidableEq, Repr

/-- `setSpeed(n)` (R202). -/
def setSpeed (n : Nat) (s : State) : Except HostReject State :=
  if 1 ≤ n then .ok { s with speed := n } else .error .speedBelowOne

/-- `loadProgram(bytes)` (R264): exactly the bytes from 0x200 on, or a rejection. -/
def loadProgram (bytes : List Byte) (s : State) : Except HostReject State :=
  if bytes.length = 0 then .error .emptyProgram
  else if 3584 < bytes.length then .error .oversizedProgram
  else .ok (writeBytes s 0x200#12 bytes)

/-- `reset()` (R260): all core state to its reset value, memory to zero and the font; `speed`, the environment and the
parameters are left alone. The only exit from a halt (R224). -/
def hostReset (s : State) : State where
  v := Vector.replicate 16 0x00#8
  i := 0x000#12
  pc := 0x200#12
  stack := Vector.replicate 16 0x000#12
  sp := 0
  dt := 0x00#8
  st := 0x00#8
  mode := .running
  userPaused := false
  speed := s.speed
  fault := .none
  mem := []
  soundOn := false
  fb := s.fb
  keys := s.keys
  draws := s.draws
  config := s.config

/-- Power-on (R261): `speed <- SPEED_INIT`, the Display as `DISPLAY_INIT`, any key levels, then `reset()`. -/
def powerOn (c : Config) (keys : KeyLevels) : State :=
  hostReset { State.reset with speed := c.speedInit, fb := c.displayInit, keys := keys, draws := 0, config := c }

/-! ### Operations at a boundary between two cycles (R203), with the environment's key transitions (R171) -/

/-- One operation that acts between two cycles: every host operation but the tick (D41). -/
inductive BoundaryOp where
  | reset
  | loadProgram (bytes : List Byte)
  | setSpeed (n : Nat)
  | step
  | pause
  | run
  | keyPress (k : Key)
  | keyDown (k : Key)
  | keyUp (k : Key)
  deriving DecidableEq, Repr

/-- A rejected operation leaves the state unchanged (R202, R226). -/
def acceptOrKeep (s : State) : Except HostReject State → State
  | .ok t => t
  | .error _ => s

/-- The state after one operation at a boundary. -/
def applyBoundary (op : BoundaryOp) (s : State) : Result :=
  match op with
  | .reset => .next (hostReset s)
  | .loadProgram bytes => .next (acceptOrKeep s (loadProgram bytes s))
  | .setSpeed n => .next (acceptOrKeep s (setSpeed n s))
  | .step => step s
  | .pause => .next (pause s)
  | .run => .next (run s)
  | .keyPress k => .next (keyPress k s)
  | .keyDown k => .next (keyDown k s)
  | .keyUp k => .next (keyUp k s)

/-- What happens at one boundary: operations in the order their source chooses (R171, R228). -/
def runBoundary : List BoundaryOp → State → Result
  | [], s => .next s
  | op :: ops, s => bindNext (applyBoundary op s) (runBoundary ops)

/-! ### A tick with operations between its cycles (R171, R195, R228) -/

/-- `k` cycle slots, each behind what happens at the boundary before it: the first list before the first slot, and so on; where
the lists have run out nothing happens. DESIGN CHOICE (log 33): a key press or a reset at a boundary inside the tick that entered
the key-wait or faulted ends the idling, and the slots behind it run, by R195's test of every slot. -/
def runSlotsAmid : Nat → List (List BoundaryOp) → State → Result
  | 0, _, s => .next s
  | k + 1, amid, s =>
    bindNext (runBoundary (amid.headD []) s) fun t => bindNext (slot t) (runSlotsAmid k amid.tail)

/-- `tick()` with operations between its cycles: its slots, what happens at the boundary behind the last of them, one timer
decrement, one sample. DESIGN CHOICE (log 33): R195's condition decides the decrement as it stands then, also where a key-wait or a
fault of this tick was ended inside it. The number of slots is `speed` at the tick's start: a new value applies from the next tick (R202). With
nothing between the cycles it is `tick` (Obligations.OperationsActBetweenCyclesOfTick). -/
def tickAmid (amid : List (List BoundaryOp)) (s : State) : Result :=
  bindNext (runSlotsAmid s.speed amid s) fun t =>
    bindNext (runBoundary (amid[s.speed]?.getD []) t) fun u => .next (sampleSound (tickTimers u))

/-! ### All host operations (R203) -/

/-- One operation of the host: at a boundary outside a tick, or a tick with what happens at the boundaries inside it. -/
inductive HostOp where
  | boundary (op : BoundaryOp)
  | tick (amid : List (List BoundaryOp))
  deriving DecidableEq, Repr

/-- The operations at boundaries that a host operation holds. -/
def HostOp.boundaryOps : HostOp → List BoundaryOp
  | .boundary op => [op]
  | .tick amid => amid.flatten

/-- The state after one host operation. -/
def applyHost (op : HostOp) (s : State) : Result :=
  match op with
  | .boundary b => applyBoundary b s
  | .tick amid => tickAmid amid s

/-- Host operations in the order the caller serialises them (R228). -/
def runHost : List HostOp → State → Result
  | [], s => .next s
  | op :: ops, s => bindNext (applyHost op s) (runHost ops)

/-! ### What the host can see (R204, R236) -/

/-- The edges of successive `sound_on` samples that drive the Audio collaborator (R204). -/
inductive AudioEvent where
  | start
  | stop
  deriving DecidableEq, Repr

/-- The edge between two samples, if there is one (R204). -/
def audioEvent (before after : State) : Option AudioEvent :=
  match before.soundOn, after.soundOn with
  | false, true => some .start
  | true, false => some .stop
  | false, false => none
  | true, true => none

/-- The memory snapshot: all 4096 bytes in address order (R236). -/
def snapshotMemory (s : State) : List Byte := (List.range 4096).map fun a => readByte s (BitVec.ofNat 12 a)

/-- The register snapshot: V[0]..V[15], I, PC (R236). -/
def snapshotRegisters (s : State) : List Byte × Addr × Addr := (s.v.toList, s.i, s.pc)

/-- The stack snapshot: all 16 entries with SP, residue included (R23, R236). -/
def snapshotStack (s : State) : List Addr × Nat := (s.stack.toList, s.sp.val)

/-- The timer snapshot: DT, ST (R236). -/
def snapshotTimers (s : State) : Byte × Byte := (s.dt, s.st)

/-- The status snapshot the spec adds: mode, user_paused, speed and the fault code (R236). -/
def snapshotStatus (s : State) : Mode × Bool × Nat × Nat := (s.mode, s.userPaused, s.speed, faultCode s.fault)

/-- The faulting instruction's word, `MemRead((PC - 2) & 0xFFF, 2)`, of a halted machine (R220). -/
def faultingWord (s : State) : Word := fetchWord (setPc s (faultingAddress s))

end Sys2Proof.Machine
end

