-- ==== Sys2Proof/Safety.lean ====
section
/-! DEFINITION. What counts as a safe run, the invariant of the machine, and the words frames are stated in. -/

namespace Sys2Proof.Machine

/-! ### Safety -/

/-- A state no fault has been recorded in. The fault outcome of this machine is a state with `fault != None`: never final, never
cleared by a later step (R223; log 3). -/
def Safe (s : State) : Prop := s.fault = .none

/-- A run of host operations that completes and records no fault. -/
def SafeRun (ops : List HostOp) (s : State) : Prop := ∃ t, runHost ops s = .next t ∧ Safe t

/-- A machine whose parameters give every instruction a meaning: none of the `refuse`, `clamp`, `wrap` values of R6. -/
def FullyDefined (c : Config) : Prop := c.vfDest ≠ .refuse ∧ c.keyRange ≠ .refuse ∧ c.stackFault = .fault

/-! ### The invariant -/

/-- What every cycle and every host operation keeps. -/
structure CoreInv (s : State) : Prop where
  /-- memory is in its canonical form -/
  memory : Memory.wf s.config.font s.mem = true
  /-- `speed` is at least 1 (R34) -/
  speed : 1 ≤ s.speed
  /-- the parameters are legal: `SPEED_INIT` at least 1, the digit-0 glyph DOC0's (R6, R57) -/
  config : s.config.legal = true
  /-- an overflow is recorded only over a full stack (R220, R223) -/
  overflow : s.fault = .stackOverflow → s.sp.val = 16
  /-- an underflow is recorded only over an empty stack (R221, R223) -/
  underflow : s.fault = .stackUnderflow → s.sp.val = 0

/-- `sound_on` is the level `ST != 0` of the last sample, and nothing has written ST since (R204). -/
def SoundSampled (s : State) : Prop := s.soundOn = (s.st != 0x00#8)

/-- The invariant of the machine between host operations. -/
def Inv (s : State) : Prop := CoreInv s ∧ SoundSampled s

/-! ### Frames (R11) -/

/-- The parts of the state. -/
inductive Part where
  | v | i | pc | stack | sp | dt | st | mode | userPaused | speed | fault | mem | soundOn | fb | keys | draws | config
  deriving DecidableEq, Repr

/-- One part reads the same in both states; for memory, every byte does. -/
def samePart (s t : State) : Part → Prop
  | .v => t.v = s.v
  | .i => t.i = s.i
  | .pc => t.pc = s.pc
  | .stack => t.stack = s.stack
  | .sp => t.sp = s.sp
  | .dt => t.dt = s.dt
  | .st => t.st = s.st
  | .mode => t.mode = s.mode
  | .userPaused => t.userPaused = s.userPaused
  | .speed => t.speed = s.speed
  | .fault => t.fault = s.fault
  | .mem => ∀ a : Addr, readByte t a = readByte s a
  | .soundOn => t.soundOn = s.soundOn
  | .fb => t.fb = s.fb
  | .keys => t.keys = s.keys
  | .draws => t.draws = s.draws
  | .config => t.config = s.config

/-- Nothing but the listed parts differs. -/
def SameBut (ps : List Part) (s t : State) : Prop := ∀ p, p ∉ ps → samePart s t p

/-- No general register but the listed ones differs. -/
def SameRegsBut (xs : List Reg) (s t : State) : Prop := ∀ z, z ∉ xs → readReg t z = readReg s z

/-- The parts of the state an instruction may write, by its rule; PC here is the write of the execute phase, after the
advance of every cycle (R22, R26, R31, R54, R164, R178, R222). -/
def mayWrite : Instr → List Part
  | .sys _ => []
  | .cls => [.fb]
  | .ret => [.pc, .sp, .fault]
  | .jp _ => [.pc]
  | .call _ => [.pc, .sp, .stack, .fault]
  | .seImm _ _ => [.pc]
  | .sneImm _ _ => [.pc]
  | .seReg _ _ => [.pc]
  | .ldImm _ _ => [.v]
  | .addImm _ _ => [.v]
  | .ldReg _ _ => [.v]
  | .orReg _ _ => [.v]
  | .andReg _ _ => [.v]
  | .xorReg _ _ => [.v]
  | .addReg _ _ => [.v]
  | .sub _ _ => [.v]
  | .shr _ _ => [.v]
  | .subn _ _ => [.v]
  | .shl _ _ => [.v]
  | .sneReg _ _ => [.pc]
  | .ldI _ => [.i]
  | .jpV0 _ => [.pc]
  | .rnd _ _ => [.v, .draws]
  | .drw _ _ _ => [.v, .fb]
  | .skp _ => [.pc]
  | .sknp _ => [.pc]
  | .ldVxDt _ => [.v]
  | .ldVxK _ => [.mode]
  | .ldDtVx _ => [.dt]
  | .ldStVx _ => [.st]
  | .addI _ => [.i]
  | .ldF _ => [.i]
  | .ldB _ => [.mem]
  | .ldMemVx _ => [.mem]
  | .ldVxMem _ => [.v]

/-- The general registers an instruction may write: its destination, and VF where the rule writes it as a flag (R21). -/
def destRegs : Instr → List Reg
  | .ldImm x _ => [x]
  | .addImm x _ => [x]
  | .ldReg x _ => [x]
  | .orReg x _ => [x]
  | .andReg x _ => [x]
  | .xorReg x _ => [x]
  | .addReg x _ => [x, flagReg]
  | .sub x _ => [x, flagReg]
  | .shr x _ => [x, flagReg]
  | .subn x _ => [x, flagReg]
  | .shl x _ => [x, flagReg]
  | .rnd x _ => [x]
  | .drw _ _ _ => [flagReg]
  | .ldVxDt x => [x]
  | .ldVxMem x => regsThrough x
  | .sys _ | .cls | .ret | .jp _ | .call _ | .seImm _ _ | .sneImm _ _ | .seReg _ _ | .sneReg _ _ | .ldI _ | .jpV0 _ => []
  | .skp _ | .sknp _ | .ldVxK _ | .ldDtVx _ | .ldStVx _ | .addI _ | .ldF _ | .ldB _ | .ldMemVx _ => []

/-- The addresses an instruction stores to (R54). -/
def storedAddresses (s : State) : Instr → List Addr
  | .ldB _ => (List.range 3).map (dataAddress s)
  | .ldMemVx x => (List.range (x.val + 1)).map (dataAddress s)
  | .sys _ | .cls | .ret | .jp _ | .call _ | .seImm _ _ | .sneImm _ _ | .seReg _ _ | .ldImm _ _ | .addImm _ _ | .ldReg _ _ => []
  | .orReg _ _ | .andReg _ _ | .xorReg _ _ | .addReg _ _ | .sub _ _ | .shr _ _ | .subn _ _ | .shl _ _ | .sneReg _ _ => []
  | .ldI _ | .jpV0 _ | .rnd _ _ | .drw _ _ _ | .skp _ | .sknp _ | .ldVxDt _ | .ldVxK _ | .ldDtVx _ | .ldStVx _ => []
  | .addI _ | .ldF _ | .ldVxMem _ => []

end Sys2Proof.Machine
end

