-- ==== Sys2Proof/Certificates/Slice0/Obligations.lean ====
section
/-! DEFINITION. The statements for the provers, each from the numbered rules of spec/. A frame is said with `SameBut`: nothing
but the listed parts of the state differs, memory byte by byte. `exec` is the execute phase: PC already holds the address of the
next instruction (R25). -/

namespace Sys2Proof.Machine

/-- What a flag-writing instruction leaves (R21, R131): with x ≠ 15 the result in V[x] and the flag in VF; with x = 15 the
result in VF, or the flag under `flag_last`; no other register, and nothing else, differs. -/
def FlagWritten (s t : State) (x : Reg) (result flag : Byte) : Prop :=
  (x ≠ flagReg → readReg t x = result ∧ readReg t flagReg = flag) ∧
  (x = flagReg → readReg t flagReg = if s.config.vfDest = .flagLast then flag else result) ∧
  SameRegsBut [x, flagReg] s t ∧ SameBut [.v] s t

/-- The value a shift reads, by `SHIFT_SOURCE` (R128, R130). -/
def ShiftValue (s : State) (x y : Reg) : Byte := if s.config.shiftSource = .vx then readReg s x else readReg s y

/-- What an instruction with destination VF answers, by `VF_DEST_POLICY` (R131): the result last, the flag last, or no meaning. -/
def VfDestinationOutcome (s : State) (r : Result) (result flag : Byte) : Prop :=
  (s.config.vfDest = .resultLast → ∃ t, r = .next t ∧ readReg t flagReg = result ∧ SameRegsBut [flagReg] s t ∧
    SameBut [.v] s t) ∧
  (s.config.vfDest = .flagLast → ∃ t, r = .next t ∧ readReg t flagReg = flag ∧ SameRegsBut [flagReg] s t ∧
    SameBut [.v] s t) ∧
  (s.config.vfDest = .refuse → r = .refused .vfDestination)

/-- `DRW Vx, Vy, n` toggles the pixel `p`: some set bit of some row, wrapped onto the screen, lies on it (R163). -/
def SpriteCovers (s : State) (x y : Reg) (n : Nibble) (p : Pixel) : Prop :=
  ∃ r c : Nat, r < n.toNat ∧ c < 8 ∧
    (readByte s (s.i + BitVec.ofNat 12 r)).getLsbD (7 - c) = true ∧
    p.1.val = ((readReg s x).toNat + c) % 64 ∧ p.2.val = ((readReg s y).toNat + r) % 32

/-- The key the byte `b` names counts as down: a code above 15 counts as up, unless `KEY_RANGE_POLICY` masks it (R172). -/
def KeyCountsDown (s : State) (b : Byte) : Prop :=
  (b.toNat ≤ 15 ∨ s.config.keyRange = .maskLowNibble) ∧ keyPressed s (Fin.ofNat 16 b.toNat) = true

/-- From `s`, `n` bytes were stored at `I`, the one at `I + k` being `byteAt k`, and `t` is the state after: the word fetched at
`s.pc` has the stored byte in each half whose address was stored to, and the old byte in each half whose address was not. -/
def FetchSeesStore (s t : State) (n : Nat) (byteAt : Nat → Byte) : Prop :=
  t.pc = s.pc ∧
  (∀ k, k < n → (dataAddress s k = s.pc → highByte (fetchWord t) = byteAt k) ∧
    (dataAddress s k = s.pc + 1#12 → lowByte (fetchWord t) = byteAt k)) ∧
  ((∀ k, k < n → dataAddress s k ≠ s.pc) → highByte (fetchWord t) = readByte s s.pc) ∧
  ((∀ k, k < n → dataAddress s k ≠ s.pc + 1#12) → lowByte (fetchWord t) = readByte s (s.pc + 1#12))

/-- The unknown encodings of each space of R80, under strict secondary decode. -/
def InUnknownSpace (w : Word) : UnknownSpace → Prop
  | .group5 => (opField w).toNat = 0x5 ∧ (nField w).toNat ≠ 0
  | .group8 => (opField w).toNat = 0x8 ∧ (nField w).toNat ∈ [0x8, 0x9, 0xA, 0xB, 0xC, 0xD, 0xF]
  | .group9 => (opField w).toNat = 0x9 ∧ (nField w).toNat ≠ 0
  | .groupE => (opField w).toNat = 0xE ∧ (nnField w).toNat ∉ [0x9E, 0xA1]
  | .groupF => (opField w).toNat = 0xF ∧
      (nnField w).toNat ∉ [0x07, 0x0A, 0x15, 0x18, 0x1E, 0x29, 0x33, 0x55, 0x65]

end Sys2Proof.Machine

open Sys2Proof Sys2Proof.Machine

/-! ### Encoding -/

/-- R75, R76, R78: decoding the encoding of a well-formed instruction gives it back, under strict and under lax decode. -/
def Obligations.DecodeOfEncode : Prop :=
  ∀ (strict : Bool) (i : Instr), wellFormed i = true → decode strict (encode i) = .instr i

/-- R75, R76: a word the strict decoder reads as an instruction is that instruction's one word, and the instruction is
well-formed. -/
def Obligations.EncodeOfDecode : Prop :=
  ∀ (w : Word) (i : Instr), decode true w = .instr i → wellFormed i = true ∧ encode i = w

/-- R80: the words the strict decoder leaves without a row are exactly the table of R80. -/
def Obligations.UnknownWordsExactly : Prop :=
  ∀ (w : Word) (u : UnknownSpace), decode true w = .unknown u ↔ InUnknownSpace w u

/-- R80: with `STRICT_LOW_NIBBLE = false`, 5xyn and 9xyn with any n are SE and SNE on registers; nothing else is decoded
differently. -/
def Obligations.LaxDecodeDiffersOnlyInFiveAndNine : Prop :=
  ∀ w : Word, decode false w =
    if (opField w).toNat = 0x5 then .instr (.seReg (xField w) (yField w))
    else if (opField w).toNat = 0x9 then .instr (.sneReg (xField w) (yField w))
    else decode true w

/-- R76: words written out from the encodings, one of each family at least. -/
def Obligations.SampleWordsDecode : Prop :=
  decodeTableWord 16 0x00E0 = some .cls ∧ decodeTableWord 16 0x00EE = some .ret ∧
  decodeTableWord 16 0x0123 = some (.sys 0x123) ∧ decodeTableWord 16 0x1ABC = some (.jp 0xABC) ∧
  decodeTableWord 16 0x332A = some (.seImm 0x3 0x2A) ∧ decodeTableWord 16 0x8AB4 = some (.addReg 0xA 0xB) ∧
  decodeTableWord 16 0xA300 = some (.ldI 0x300) ∧ decodeTableWord 16 0xC30F = some (.rnd 0x3 0x0F) ∧
  decodeTableWord 16 0xD125 = some (.drw 0x1 0x2 0x5) ∧ decodeTableWord 16 0xE19E = some (.skp 0x1) ∧
  decodeTableWord 16 0xF30A = some (.ldVxK 0x3) ∧ decodeTableWord 16 0xF265 = some (.ldVxMem 0x2) ∧
  decodeTableWord 16 0x5121 = none

/-! ### Fetch and step -/

/-- R51: the word fetched is the byte at PC in bits 15:8 and the byte at PC + 1 modulo 4096 in bits 7:0. -/
def Obligations.FetchIsBigEndianAndWraps : Prop :=
  ∀ s : State, ∃ a : Addr, a.toNat = (s.pc.toNat + 1) % 4096 ∧
    (fetchWord s).extractLsb' 8 8 = readByte s s.pc ∧ (fetchWord s).extractLsb' 0 8 = readByte s a

/-- R190, R191, R198: behind an open gate, a step whose fetched word decodes to `i` is `exec i` at the state with PC advanced,
followed by the sample of `sound_on`; a fault or a refusal of `exec` is the step's. The user pause does not matter. -/
def Obligations.StepRunsDecodedInstruction : Prop :=
  ∀ (s : State) (i : Instr), s.fault = .none → s.mode = .running →
    decode s.config.strictLowNibble (fetchWord s) = .instr i →
    step s = bindNext (exec i (advancePc s)) fun t => .next (sampleSound t)

/-- R80: an unknown encoding is a no-op after PC has advanced: the step changes PC by 2 modulo 4096, samples `sound_on`, and
nothing else. -/
def Obligations.UnknownEncodingIsNoOp : Prop :=
  ∀ (s : State) (u : UnknownSpace), s.fault = .none → s.mode = .running →
    decode s.config.strictLowNibble (fetchWord s) = .unknown u →
    ∃ t, step s = .next t ∧ t.pc.toNat = (s.pc.toNat + 2) % 4096 ∧ t.soundOn = (s.st != 0x00#8) ∧
      SameBut [.pc, .soundOn] s t

/-- R191, R195, R198, R223, R237: while halted or waiting for a key, `step()` and `tick()` change nothing but the sample of
`sound_on`; while paused by the user, `tick()` does neither. -/
def Obligations.NothingRunsBehindClosedGate : Prop :=
  ∀ s : State,
    (s.fault ≠ .none ∨ s.mode ≠ .running →
      ∃ t, step s = .next t ∧ t.soundOn = (s.st != 0x00#8) ∧ SameBut [.soundOn] s t) ∧
    (s.fault ≠ .none ∨ s.mode ≠ .running ∨ s.userPaused = true →
      ∃ t, tick s = .next t ∧ t.soundOn = (s.st != 0x00#8) ∧ SameBut [.soundOn] s t)

/-- Of the model's `withFetchWord` (log 16): the very next step runs the instruction the word decodes to. -/
def Obligations.PlacedWordRunsNext : Prop :=
  ∀ (s : State) (w : Word) (i : Instr), decode s.config.strictLowNibble w = .instr i →
    step (s.withFetchWord 16 w.toNat) =
      bindNext (exec i (advancePc (s.withFetchWord 16 w.toNat))) fun t => .next (sampleSound t)

/-! ### Control flow -/

/-- R100: SYS is a no-op. -/
def Obligations.SysIsNoOp : Prop := ∀ (nnn : Addr) (s : State), exec (.sys nnn) s = .next s

/-- R102, R108: JP sets PC to nnn; JP V0 sets it to nnn + V[0] modulo 4096; nothing else changes. -/
def Obligations.JumpsSetPc : Prop :=
  ∀ (nnn : Addr) (s : State),
    (∃ t, exec (.jp nnn) s = .next t ∧ t.pc = nnn ∧ SameBut [.pc] s t) ∧
    (∃ t, exec (.jpV0 nnn) s = .next t ∧ t.pc.toNat = (nnn.toNat + (readReg s 0).toNat) % 4096 ∧ SameBut [.pc] s t)

/-- R103, R220, R223: CALL with SP < 16 pushes PC and jumps; with SP = 16 (under `STACK_FAULT_POLICY = fault`) it records
StackOverflow and changes nothing else. -/
def Obligations.CallPushesOrOverflows : Prop :=
  ∀ (nnn : Addr) (s : State),
    (s.sp.val < 16 → ∃ t, exec (.call nnn) s = .next t ∧ t.pc = nnn ∧ t.sp.val = s.sp.val + 1 ∧
      (∀ k : Fin 16, t.stack[k.val] = if k.val = s.sp.val then s.pc else s.stack[k.val]) ∧
      SameBut [.pc, .sp, .stack] s t) ∧
    (s.sp.val = 16 → s.config.stackFault = .fault → ∃ t, exec (.call nnn) s = .next t ∧
      t.fault = .stackOverflow ∧ SameBut [.fault] s t)

/-- R101, R221, R223: RET with SP > 0 takes PC from `stack[SP - 1]` and leaves the slot as it is; with SP = 0 (under
`STACK_FAULT_POLICY = fault`) it records StackUnderflow and changes nothing else. -/
def Obligations.RetPopsOrUnderflows : Prop :=
  ∀ s : State,
    (0 < s.sp.val → ∃ t, exec .ret s = .next t ∧ t.sp.val + 1 = s.sp.val ∧
      (∀ k : Fin 16, k.val + 1 = s.sp.val → t.pc = s.stack[k.val]) ∧ SameBut [.pc, .sp] s t) ∧
    (s.sp.val = 0 → s.config.stackFault = .fault → ∃ t, exec .ret s = .next t ∧
      t.fault = .stackUnderflow ∧ SameBut [.fault] s t)

/-- R6 with the model's choice of log 5: under the stack policies the spec names and does not specify, the two violations stop
the machine by name. -/
def Obligations.OpenStackPolicyStopsByName : Prop :=
  ∀ (nnn : Addr) (s : State), s.config.stackFault ≠ .fault →
    (s.sp.val = 16 → exec (.call nnn) s = .fault (.stackPolicyOpen s.config.stackFault)) ∧
    (s.sp.val = 0 → exec .ret s = .fault (.stackPolicyOpen s.config.stackFault))

/-- R104 to R107: the four skips advance PC by 2 more, modulo 4096, exactly when their comparison holds, and write nothing
else. -/
def Obligations.SkipsCompareRegisters : Prop :=
  ∀ (x y : Reg) (nn : Byte) (s : State),
    (∃ t, exec (.seImm x nn) s = .next t ∧ SameBut [.pc] s t ∧
      t.pc.toNat = (s.pc.toNat + if readReg s x = nn then 2 else 0) % 4096) ∧
    (∃ t, exec (.sneImm x nn) s = .next t ∧ SameBut [.pc] s t ∧
      t.pc.toNat = (s.pc.toNat + if readReg s x = nn then 0 else 2) % 4096) ∧
    (∃ t, exec (.seReg x y) s = .next t ∧ SameBut [.pc] s t ∧
      t.pc.toNat = (s.pc.toNat + if readReg s x = readReg s y then 2 else 0) % 4096) ∧
    (∃ t, exec (.sneReg x y) s = .next t ∧ SameBut [.pc] s t ∧
      t.pc.toNat = (s.pc.toNat + if readReg s x = readReg s y then 0 else 2) % 4096)

/-- R101 (DOC0's round trip, vector E4): a step over CALL A at address P followed by a step over RET at A gives PC = P + 2 and
the SP from before; besides PC, the one pushed slot and the sound sample nothing has changed. -/
def Obligations.CallThenRetReturns : Prop :=
  ∀ (s : State) (a : Addr), s.fault = .none → s.mode = .running → s.sp.val < 16 →
    decode s.config.strictLowNibble (fetchWord s) = .instr (.call a) →
    decode s.config.strictLowNibble (fetchWord (setPc s a)) = .instr .ret →
    ∃ t u, step s = .next t ∧ step t = .next u ∧ t.pc = a ∧ u.pc.toNat = (s.pc.toNat + 2) % 4096 ∧ u.sp = s.sp ∧
      (∀ k : Fin 16, k.val ≠ s.sp.val → u.stack[k.val] = s.stack[k.val]) ∧ SameBut [.pc, .stack, .soundOn] s u

/-! ### Register loads and arithmetic -/

/-- R120, R122: LD puts the immediate, or the other register's value, into V[x]; no other register and nothing else changes. -/
def Obligations.LoadsSetRegister : Prop :=
  ∀ (x y : Reg) (nn : Byte) (s : State),
    (∃ t, exec (.ldImm x nn) s = .next t ∧ readReg t x = nn ∧ SameRegsBut [x] s t ∧ SameBut [.v] s t) ∧
    (∃ t, exec (.ldReg x y) s = .next t ∧ readReg t x = readReg s y ∧ SameRegsBut [x] s t ∧ SameBut [.v] s t)

/-- R121: ADD Vx, nn wraps modulo 256 and writes no flag: no register but V[x] changes. -/
def Obligations.AddImmediateWrapsWithoutFlag : Prop :=
  ∀ (x : Reg) (nn : Byte) (s : State), ∃ t, exec (.addImm x nn) s = .next t ∧
    (readReg t x).toNat = ((readReg s x).toNat + nn.toNat) % 256 ∧ SameRegsBut [x] s t ∧ SameBut [.v] s t

/-- R123 to R125: OR, AND, XOR act bit by bit on the latched operands and write no flag. -/
def Obligations.LogicIsBitwiseWithoutFlag : Prop :=
  ∀ (x y : Reg) (s : State),
    (∃ t, exec (.orReg x y) s = .next t ∧ SameRegsBut [x] s t ∧ SameBut [.v] s t ∧
      ∀ k, k < 8 → (readReg t x).getLsbD k = ((readReg s x).getLsbD k || (readReg s y).getLsbD k)) ∧
    (∃ t, exec (.andReg x y) s = .next t ∧ SameRegsBut [x] s t ∧ SameBut [.v] s t ∧
      ∀ k, k < 8 → (readReg t x).getLsbD k = ((readReg s x).getLsbD k && (readReg s y).getLsbD k)) ∧
    (∃ t, exec (.xorReg x y) s = .next t ∧ SameRegsBut [x] s t ∧ SameBut [.v] s t ∧
      ∀ k, k < 8 → (readReg t x).getLsbD k = ((readReg s x).getLsbD k ^^ (readReg s y).getLsbD k))

/-- R126: ADD Vx, Vy: the sum modulo 256, and the carry, 1 iff the sum exceeds 255. -/
def Obligations.AddSetsSumAndCarry : Prop :=
  ∀ (x y : Reg) (s : State), (x = flagReg → s.config.vfDest ≠ .refuse) →
    ∃ t, exec (.addReg x y) s = .next t ∧
      FlagWritten s t x (BitVec.ofNat 8 ((readReg s x).toNat + (readReg s y).toNat))
        (if 255 < (readReg s x).toNat + (readReg s y).toNat then 1 else 0)

/-- R127: SUB Vx, Vy: V[x] - V[y] modulo 256, and not-borrow, 1 iff V[x] ≥ V[y]. -/
def Obligations.SubSetsDifferenceAndNotBorrow : Prop :=
  ∀ (x y : Reg) (s : State), (x = flagReg → s.config.vfDest ≠ .refuse) →
    ∃ t, exec (.sub x y) s = .next t ∧
      FlagWritten s t x (BitVec.ofNat 8 (256 + (readReg s x).toNat - (readReg s y).toNat))
        (if (readReg s y).toNat ≤ (readReg s x).toNat then 1 else 0)

/-- R129: SUBN Vx, Vy: V[y] - V[x] modulo 256, and not-borrow, 1 iff V[y] ≥ V[x]. -/
def Obligations.SubnSetsReverseDifferenceAndNotBorrow : Prop :=
  ∀ (x y : Reg) (s : State), (x = flagReg → s.config.vfDest ≠ .refuse) →
    ∃ t, exec (.subn x y) s = .next t ∧
      FlagWritten s t x (BitVec.ofNat 8 (256 + (readReg s y).toNat - (readReg s x).toNat))
        (if (readReg s x).toNat ≤ (readReg s y).toNat then 1 else 0)

/-- R128: SHR: the value halved, and bit 0 of it as the flag; the value is V[x], or V[y] under `SHIFT_SOURCE = Vy`. -/
def Obligations.ShrHalvesAndKeepsLowBit : Prop :=
  ∀ (x y : Reg) (s : State), (x = flagReg → s.config.vfDest ≠ .refuse) →
    ∃ t, exec (.shr x y) s = .next t ∧
      FlagWritten s t x (BitVec.ofNat 8 ((ShiftValue s x y).toNat / 2)) (BitVec.ofNat 8 ((ShiftValue s x y).toNat % 2))

/-- R130: SHL: the value doubled modulo 256, and bit 7 of it as the flag. -/
def Obligations.ShlDoublesAndKeepsHighBit : Prop :=
  ∀ (x y : Reg) (s : State), (x = flagReg → s.config.vfDest ≠ .refuse) →
    ∃ t, exec (.shl x y) s = .next t ∧
      FlagWritten s t x (BitVec.ofNat 8 (2 * (ShiftValue s x y).toNat)) (BitVec.ofNat 8 ((ShiftValue s x y).toNat / 128))

/-- R131: the five flag-writing instructions with destination VF: under `result_last` VF keeps the result, under `flag_last` the
flag, both computed from the old operands; under `refuse` the encoding has no meaning. -/
def Obligations.VfDestinationFollowsPolicy : Prop :=
  ∀ (y : Reg) (s : State),
    VfDestinationOutcome s (exec (.addReg flagReg y) s)
      (BitVec.ofNat 8 ((readReg s flagReg).toNat + (readReg s y).toNat))
      (if 255 < (readReg s flagReg).toNat + (readReg s y).toNat then 1 else 0) ∧
    VfDestinationOutcome s (exec (.sub flagReg y) s)
      (BitVec.ofNat 8 (256 + (readReg s flagReg).toNat - (readReg s y).toNat))
      (if (readReg s y).toNat ≤ (readReg s flagReg).toNat then 1 else 0) ∧
    VfDestinationOutcome s (exec (.subn flagReg y) s)
      (BitVec.ofNat 8 (256 + (readReg s y).toNat - (readReg s flagReg).toNat))
      (if (readReg s flagReg).toNat ≤ (readReg s y).toNat then 1 else 0) ∧
    VfDestinationOutcome s (exec (.shr flagReg y) s)
      (BitVec.ofNat 8 ((ShiftValue s flagReg y).toNat / 2)) (BitVec.ofNat 8 ((ShiftValue s flagReg y).toNat % 2)) ∧
    VfDestinationOutcome s (exec (.shl flagReg y) s)
      (BitVec.ofNat 8 (2 * (ShiftValue s flagReg y).toNat)) (BitVec.ofNat 8 ((ShiftValue s flagReg y).toNat / 128))

/-! ### Index register, random, memory -/

/-- R140 to R142: LD I, ADD I (modulo 4096, no flag) and LD F (of the whole byte) set I and nothing else. -/
def Obligations.IndexRegisterWrites : Prop :=
  ∀ (x : Reg) (nnn : Addr) (s : State),
    (∃ t, exec (.ldI nnn) s = .next t ∧ t.i = nnn ∧ SameBut [.i] s t) ∧
    (∃ t, exec (.addI x) s = .next t ∧ t.i.toNat = (s.i.toNat + (readReg s x).toNat) % 4096 ∧ SameBut [.i] s t) ∧
    (∃ t, exec (.ldF x) s = .next t ∧ t.i.toNat = 0x050 + (readReg s x).toNat * 5 ∧ SameBut [.i] s t)

/-- R143: RND puts the byte the source answers, masked with nn, into V[x], with exactly one transaction. The byte is the free
value `randomByte`: the statement holds whatever it is. -/
def Obligations.RndMasksOneFreeByte : Prop :=
  ∀ (x : Reg) (nn : Byte) (s : State), ∃ t, exec (.rnd x nn) s = .next t ∧
    readReg t x = randomByte s.draws &&& nn ∧ t.draws = s.draws + 1 ∧ SameRegsBut [x] s t ∧ SameBut [.v, .draws] s t

/-- R144: LD B stores the three decimal digits of V[x] at I, I + 1, I + 2 modulo 4096; every other byte, every register and I are
unchanged. -/
def Obligations.BcdStoresThreeDigits : Prop :=
  ∀ (x : Reg) (s : State), ∃ t, exec (.ldB x) s = .next t ∧
    (readByte t (dataAddress s 0)).toNat = (readReg s x).toNat / 100 ∧
    (readByte t (dataAddress s 1)).toNat = (readReg s x).toNat / 10 % 10 ∧
    (readByte t (dataAddress s 2)).toNat = (readReg s x).toNat % 10 ∧
    (∀ a : Addr, (∀ k, k < 3 → a ≠ dataAddress s k) → readByte t a = readByte s a) ∧ SameBut [.mem] s t

/-- R146: LD [I], Vx stores V[k] at I + k modulo 4096 for k = 0..x; every other byte, every register and I are unchanged. -/
def Obligations.BulkStoreWritesRegisters : Prop :=
  ∀ (x : Reg) (s : State), ∃ t, exec (.ldMemVx x) s = .next t ∧
    (∀ k : Reg, k ≤ x → readByte t (dataAddress s k.val) = readReg s k) ∧
    (∀ a : Addr, (∀ k : Reg, k ≤ x → a ≠ dataAddress s k.val) → readByte t a = readByte s a) ∧ SameBut [.mem] s t

/-- R147: LD Vx, [I] loads V[k] from I + k modulo 4096 for k = 0..x; the registers above x, memory and I are unchanged. -/
def Obligations.BulkLoadReadsRegisters : Prop :=
  ∀ (x : Reg) (s : State), ∃ t, exec (.ldVxMem x) s = .next t ∧
    (∀ k : Reg, k ≤ x → readReg t k = readByte s (dataAddress s k.val)) ∧
    (∀ k : Reg, x < k → readReg t k = readReg s k) ∧ SameBut [.v] s t

/-- R146, R147 (vector T3): what LD [I], Vx stored, LD Vx, [I] loads back, whatever the registers held in between. -/
def Obligations.BulkStoreThenLoadRestores : Prop :=
  ∀ (x : Reg) (s : State) (between : Vector Byte 16), ∃ t u, exec (.ldMemVx x) s = .next t ∧
    exec (.ldVxMem x) { t with v := between } = .next u ∧ u.i = s.i ∧ ∀ k : Reg, k ≤ x → readReg u k = readReg s k

/-- R62: a store is seen by the very next fetch: after LD B and after LD [I], Vx the word fetched at PC has the stored byte in each
half that was stored to, one half or both, and the old byte in the other; with I = PC and x ≥ 1 the word is V[0], V[1]. -/
def Obligations.StoreSeenByNextFetch : Prop :=
  ∀ (x : Reg) (s : State),
    (∃ t, exec (.ldMemVx x) s = .next t ∧ FetchSeesStore s t (x.val + 1) (fun k => readReg s (Fin.ofNat 16 k)) ∧
      (1 ≤ x.val → s.i = s.pc → (fetchWord t).toNat = 256 * (readReg s 0).toNat + (readReg s 1).toNat)) ∧
    (∃ t, exec (.ldB x) s = .next t ∧
      FetchSeesStore s t 3 (fun k => BitVec.ofNat 8 ((readReg s x).toNat / 10 ^ (2 - k) % 10)))

/-! ### Display -/

/-- R162: CLS turns every pixel off; no register, VF included, and nothing else changes. -/
def Obligations.ClsClearsEveryPixel : Prop :=
  ∀ s : State, ∃ t, exec .cls s = .next t ∧ (∀ p : Pixel, pixelOn t.fb p = false) ∧ SameBut [.fb] s t

/-- R163: within one DRW the toggled coordinates are pairwise distinct. -/
def Obligations.DrawTogglesDistinctPixels : Prop :=
  ∀ (x y : Reg) (n : Nibble) (s : State), (drawTransactions s x y n).Nodup

/-- R163, R164: DRW inverts exactly the pixels its sprite covers, each coordinate wrapped on its own; VF becomes 1 if a covered
pixel was on and 0 otherwise; nothing but the pixels and VF changes. -/
def Obligations.DrawInvertsCoveredPixels : Prop :=
  ∀ (x y : Reg) (n : Nibble) (s : State), ∃ t, exec (.drw x y n) s = .next t ∧
    (∀ p, SpriteCovers s x y n p → pixelOn t.fb p = !pixelOn s.fb p) ∧
    (∀ p, ¬ SpriteCovers s x y n p → pixelOn t.fb p = pixelOn s.fb p) ∧
    ((∃ p, SpriteCovers s x y n p ∧ pixelOn s.fb p = true) → readReg t flagReg = 1) ∧
    (¬ (∃ p, SpriteCovers s x y n p ∧ pixelOn s.fb p = true) → readReg t flagReg = 0) ∧
    SameRegsBut [flagReg] s t ∧ SameBut [.v, .fb] s t

/-- R163 (DOC0 §8, vector E5): drawing the same sprite twice at the same place restores every pixel, and the second draw reports
a collision iff the sprite covers a pixel that was off before the first. -/
def Obligations.DrawTwiceRestoresPixels : Prop :=
  ∀ (x y : Reg) (n : Nibble) (s : State), x ≠ flagReg → y ≠ flagReg →
    ∃ t u, exec (.drw x y n) s = .next t ∧ exec (.drw x y n) t = .next u ∧ (∀ p, pixelOn u.fb p = pixelOn s.fb p) ∧
      (readReg u flagReg = 1 ↔ ∃ p, SpriteCovers s x y n p ∧ pixelOn s.fb p = false)

/-! ### Keys and timers -/

/-- R172, R173: SKP skips exactly when the key of V[x] counts as down, SKNP exactly when it does not; nothing but PC changes. -/
def Obligations.KeySkipsFollowKeyLevel : Prop :=
  ∀ (x : Reg) (s : State), (s.config.keyRange = .refuse → (readReg s x).toNat ≤ 15) →
    ∃ t u, exec (.skp x) s = .next t ∧ exec (.sknp x) s = .next u ∧ SameBut [.pc] s t ∧ SameBut [.pc] s u ∧
      (KeyCountsDown s (readReg s x) → t.pc.toNat = (s.pc.toNat + 2) % 4096 ∧ u.pc = s.pc) ∧
      (¬ KeyCountsDown s (readReg s x) → t.pc = s.pc ∧ u.pc.toNat = (s.pc.toNat + 2) % 4096)

/-- R172: with `KEY_RANGE_POLICY = refuse`, a key code above 15 has no meaning. -/
def Obligations.KeyCodeAboveFifteenRefusedByPolicy : Prop :=
  ∀ (x : Reg) (s : State), s.config.keyRange = .refuse → 15 < (readReg s x).toNat →
    exec (.skp x) s = .refused .keyOutOfRange ∧ exec (.sknp x) s = .refused .keyOutOfRange

/-- R174: LD Vx, K sets the mode and nothing else: no register is written yet, PC is not moved; the wait is armed, the scheduler
is PAUSED and the gate is closed. R31, R33, R191: in every state the wait is armed exactly while the mode is a key-wait, the
scheduler is RUNNING exactly while the mode is Running and the user has not paused, and PAUSED otherwise, and the gate is open
exactly while no fault is recorded and the mode is Running. -/
def Obligations.KeyWaitIsEntered : Prop :=
  (∀ s : State,
    (keyWaitArmed s = true ↔ ∃ x, s.mode = .awaitingKey x) ∧
    (schedState s = .running ↔ s.userPaused = false ∧ s.mode = .running) ∧
    (schedState s = .paused ↔ s.userPaused = true ∨ s.mode ≠ .running) ∧
    (gateOpen s = true ↔ s.fault = .none ∧ s.mode = .running)) ∧
  ∀ (x : Reg) (s : State), ∃ t, exec (.ldVxK x) s = .next t ∧ t.mode = .awaitingKey x ∧ SameBut [.mode] s t ∧
    keyWaitArmed t = true ∧ schedState t = .paused ∧ gateOpen t = false

/-- R175 to R177: the three timer moves. -/
def Obligations.TimerMoves : Prop :=
  ∀ (x : Reg) (s : State),
    (∃ t, exec (.ldVxDt x) s = .next t ∧ readReg t x = s.dt ∧ SameRegsBut [x] s t ∧ SameBut [.v] s t) ∧
    (∃ t, exec (.ldDtVx x) s = .next t ∧ t.dt = readReg s x ∧ SameBut [.dt] s t) ∧
    (∃ t, exec (.ldStVx x) s = .next t ∧ t.st = readReg s x ∧ SameBut [.st] s t)

/-! ### Scheduler and host operations -/

/-- R196, R195: after a tick's slots, and only if RUNNING still holds, each timer goes down by exactly 1 if above 0; then
`sound_on` is sampled; nothing else changes. -/
def Obligations.TickDecrementsOnceIfRunning : Prop :=
  ∀ s t : State, runSlots s.speed s = .next t → ∃ u, tick s = .next u ∧ SameBut [.dt, .st, .soundOn] t u ∧
    (running t = true → u.dt.toNat = t.dt.toNat - 1 ∧ u.st.toNat = t.st.toNat - 1) ∧
    (running t = false → u.dt = t.dt ∧ u.st = t.st) ∧ u.soundOn = (u.st != 0x00#8)

/-- R197: once a cycle of a tick has entered a key-wait or faulted, the remaining slots are idle. -/
def Obligations.SlotsIdleAfterKeyWaitOrFault : Prop :=
  ∀ (j k : Nat) (s t : State), runSlots j s = .next t → t.fault ≠ .none ∨ t.mode ≠ .running →
    runSlots (j + k) s = .next t

/-- R171, R195, R198, R202, R203, R228 (log 23): operations act between the cycles of a tick. RUNNING is: no fault,
mode Running, no user pause. A cycle executes the fetched instruction, or only advances PC over an unknown encoding. A cycle slot is
a cycle, the one `step()` runs, if RUNNING holds for it, and idle otherwise. The slots of a tick follow one another, each behind what
happens at its boundary; where one stops the model by name, the tick stops so. With nothing between the cycles the tick is R195's; a tick of
`j + 1 + k` slots is its first `j` slots, then what happens at the boundary behind them, then the cycle slot that sees it, then the
other `k`. A key pressed or released at a boundary has its new level in the slot behind it (of the reference
Input of R171, which the rule lets a model replace: log 25). Behind the last slot and its boundary
come one decrement, if RUNNING holds then, and one sample. That a key press or a reset inside the tick lets the slots behind it run, and
the decrement take place, although a cycle of that tick entered a key-wait or faulted, is the model's choice (log 33). The number
of slots is the `speed` of the tick's start. A run is its operations one after another. -/
def Obligations.OperationsActBetweenCyclesOfTick : Prop :=
  (∀ s : State, running s = true ↔ s.fault = .none ∧ s.mode = .running ∧ s.userPaused = false) ∧
  (∀ (s : State) (i : Instr), decode s.config.strictLowNibble (fetchWord s) = .instr i → cycle s = exec i (advancePc s)) ∧
  (∀ (s : State) (u : UnknownSpace), decode s.config.strictLowNibble (fetchWord s) = .unknown u →
    cycle s = .next (advancePc s)) ∧
  (∀ s : State, (running s = true → slot s = cycle s ∧ step s = bindNext (slot s) fun t => .next (sampleSound t)) ∧
    (running s = false → slot s = .next s)) ∧
  (∀ s : State, tickAmid [] s = tick s) ∧
  (∀ s : State, runSlots 0 s = .next s) ∧
  (∀ (k : Nat) (s : State), runSlots (k + 1) s = bindNext (slot s) (runSlots k)) ∧
  (∀ (k : Nat) (s : State), runSlotsAmid k [] s = runSlots k s) ∧
  (∀ (amid : List (List BoundaryOp)) (s : State), runSlotsAmid 0 amid s = .next s) ∧
  (∀ (amid : List (List BoundaryOp)) (s : State), (∀ t, runSlotsAmid s.speed amid s ≠ .next t) →
    tickAmid amid s = runSlotsAmid s.speed amid s) ∧
  (∀ (before after : List (List BoundaryOp)) (ops : List BoundaryOp) (k : Nat) (s : State),
    runSlotsAmid (before.length + 1 + k) (before ++ ops :: after) s =
      bindNext (runSlotsAmid before.length before s) fun t =>
        bindNext (runBoundary ops t) fun u => bindNext (slot u) (runSlotsAmid k after)) ∧
  (∀ (key : Key) (s : State),
    (∃ t, runBoundary [.keyDown key] s = .next t ∧ keyPressed t key = true) ∧
    (∃ t, runBoundary [.keyUp key] s = .next t ∧ keyPressed t key = false)) ∧
  (∀ (amid : List (List BoundaryOp)) (s t u : State), runSlotsAmid s.speed amid s = .next t →
    runBoundary (amid[s.speed]?.getD []) t = .next u → ∃ w, tickAmid amid s = .next w ∧ SameBut [.dt, .st, .soundOn] u w ∧
      (running u = true → w.dt.toNat = u.dt.toNat - 1 ∧ w.st.toNat = u.st.toNat - 1) ∧
      (running u = false → w.dt = u.dt ∧ w.st = u.st) ∧ w.soundOn = (w.st != 0x00#8)) ∧
  (∀ s : State, applyHost (.boundary .step) s = step s ∧ runBoundary [] s = .next s ∧ runHost [] s = .next s ∧
    (∀ amid, applyHost (.tick amid) s = tickAmid amid s) ∧ (∀ op, applyHost (.boundary op) s = applyBoundary op s) ∧
    (∀ op ops, runBoundary (op :: ops) s = bindNext (applyBoundary op s) (runBoundary ops)) ∧
    (∀ op ops, runHost (op :: ops) s = bindNext (applyHost op s) (runHost ops)))

/-- R193, R196 (vector E7): a running machine at `JP a` located at `a` stays there for ever; n ticks take n off each timer, never
below 0, and change nothing else. -/
def Obligations.IdleLoopCountsTimersDown : Prop :=
  ∀ (n : Nat) (s : State), running s = true → decode s.config.strictLowNibble (fetchWord s) = .instr (.jp s.pc) →
    ∃ t, runHost (List.replicate n (.tick [])) s = .next t ∧ t.dt.toNat = s.dt.toNat - n ∧ t.st.toNat = s.st.toNat - n ∧
      SameBut [.dt, .st, .soundOn] s t

/-- R199: `key_press(k)` completes a pending key-wait and does nothing otherwise. Of the reference Input of R171, which the rule
lets a model replace (log 25): a key going down from up raises its level and delivers `key_press`; a key already down delivers
nothing; a release lowers the level and delivers nothing. The operations of runs are these functions. -/
def Obligations.KeyPressCompletesWait : Prop :=
  ∀ (k : Key) (s : State),
    (∀ x, s.fault = .none → s.mode = .awaitingKey x →
      (readReg (keyPress k s) x).toNat = k.val ∧ (keyPress k s).mode = .running ∧
      SameRegsBut [x] s (keyPress k s) ∧ SameBut [.v, .mode] s (keyPress k s)) ∧
    (s.fault ≠ .none ∨ s.mode = .running → keyPress k s = s) ∧
    (keyPressed s k = true → keyDown k s = s) ∧
    (keyPressed s k = false → ∃ t, keyDown k s = keyPress k t ∧ SameBut [.keys] s t ∧
      ∀ j : Key, keyPressed t j = if j = k then true else keyPressed s j) ∧
    (SameBut [.keys] s (keyUp k s) ∧ ∀ j : Key, keyPressed (keyUp k s) j = if j = k then false else keyPressed s j) ∧
    applyHost (.boundary (.keyPress k)) s = .next (keyPress k s) ∧
    applyHost (.boundary (.keyDown k)) s = .next (keyDown k s) ∧
    applyHost (.boundary (.keyUp k)) s = .next (keyUp k s)

/-- R201, R202: pause and run write only the user pause; setSpeed takes n ≥ 1 and rejects 0 with no change; the operations of
runs do the same. -/
def Obligations.PauseRunAndSpeed : Prop :=
  ∀ (n : Nat) (s : State),
    ((pause s).userPaused = true ∧ SameBut [.userPaused] s (pause s) ∧
      applyHost (.boundary .pause) s = .next (pause s)) ∧
    ((run s).userPaused = false ∧ SameBut [.userPaused] s (run s) ∧ applyHost (.boundary .run) s = .next (run s)) ∧
    (1 ≤ n → ∃ t, setSpeed n s = .ok t ∧ applyHost (.boundary (.setSpeed n)) s = .next t ∧ t.speed = n ∧ SameBut [.speed] s t) ∧
    (n < 1 → setSpeed n s = .error .speedBelowOne ∧ applyHost (.boundary (.setSpeed n)) s = .next s)

/-- R264: loadProgram rejects 0 bytes and more than 3584 with no change; otherwise it writes exactly those bytes from 0x200;
the operation of runs does the same. -/
def Obligations.LoadProgramWritesExactlyItsBytes : Prop :=
  ∀ (bytes : List Byte) (s : State),
    (bytes.length = 0 ∨ 3584 < bytes.length →
      (∃ e, loadProgram bytes s = .error e) ∧ applyHost (.boundary (.loadProgram bytes)) s = .next s) ∧
    (1 ≤ bytes.length ∧ bytes.length ≤ 3584 → ∃ t, loadProgram bytes s = .ok t ∧
      applyHost (.boundary (.loadProgram bytes)) s = .next t ∧
      (∀ (k : Nat) (h : k < bytes.length), readByte t (BitVec.ofNat 12 (0x200 + k)) = bytes[k]) ∧
      (∀ a : Addr, a.toNat < 0x200 ∨ 0x200 + bytes.length ≤ a.toNat → readByte t a = readByte s a) ∧
      SameBut [.mem] s t)

/-- R260: reset in any state re-zeroes the core, restores the font (with DOC0's digit-0 glyph, the parameters being legal),
clears the fault and the wait, and leaves `speed` alone; no Display, Input or random transaction is made. It is the only operation
that clears the fault and, besides the key press, the only one that ends a key-wait, a tick doing so only if it holds one of them
between its cycles. -/
def Obligations.ResetRestoresCore : Prop :=
  (∀ s : State, ∃ t, applyHost (.boundary .reset) s = .next t ∧ (∀ x, readReg t x = 0) ∧ t.i = 0x000#12 ∧ t.pc = 0x200#12 ∧
    (∀ k : Fin 16, t.stack[k.val] = 0x000#12) ∧ t.sp.val = 0 ∧ t.dt = 0 ∧ t.st = 0 ∧ t.mode = .running ∧
    t.userPaused = false ∧ t.fault = .none ∧ t.soundOn = false ∧
    (∀ a : Addr, a.toNat < 0x050 ∨ 0x0A0 ≤ a.toNat → readByte t a = 0) ∧
    (∀ (k : Nat) (h : k < 80), readByte t (BitVec.ofNat 12 (0x050 + k)) = s.config.font[k]) ∧
    (s.config.legal = true → ∀ k : Fin 5, readByte t (BitVec.ofNat 12 (0x050 + k.val)) = digitZeroGlyph[k.val]) ∧
    SameBut [.v, .i, .pc, .stack, .sp, .dt, .st, .mode, .userPaused, .fault, .soundOn, .mem] s t) ∧
  (∀ (op : HostOp) (s t : State), applyHost op s = .next t → s.fault ≠ .none → t.fault = .none →
    .reset ∈ op.boundaryOps) ∧
  (∀ (op : HostOp) (s t : State) (x : Reg), applyHost op s = .next t → s.mode = .awaitingKey x → t.mode ≠ .awaitingKey x →
    .reset ∈ op.boundaryOps ∨ ∃ k, .keyPress k ∈ op.boundaryOps ∨ .keyDown k ∈ op.boundaryOps)

/-- R261, R40: power-on is `speed <- SPEED_INIT`, the Display at `DISPLAY_INIT`, then reset; `State.reset` is the power-on of
the recommended parameters, with the font at 0x050..0x09F and zero everywhere else. What `SPEED_INIT` and `DISPLAY_INIT` are in
it, and the key levels, are the model's choices (logs 10, 11, 12); the 75 font bytes beyond the digit 0 are PRESUMED (log 14). -/
def Obligations.PowerOnIsSpeedInitThenReset : Prop :=
  (∀ (c : Config) (keys : KeyLevels), (powerOn c keys).speed = c.speedInit ∧ (powerOn c keys).fb = c.displayInit ∧
    (powerOn c keys).keys = keys ∧ (powerOn c keys).config = c ∧
    applyHost (.boundary .reset) (powerOn c keys) = .next (powerOn c keys)) ∧
  State.reset = powerOn defaultConfig noKeysDown ∧ State.reset.pc = 0x200#12 ∧ State.reset.sp.val = 0 ∧
  State.reset.mode = .running ∧ State.reset.fault = .none ∧
  (∀ (k : Nat) (h : k < 80), readByte State.reset (BitVec.ofNat 12 (0x050 + k)) = defaultFont[k]) ∧
  (∀ a : Addr, a.toNat < 0x050 ∨ 0x0A0 ≤ a.toNat → readByte State.reset a = 0)

/-- R204: after every step, tick (with anything between its cycles) and reset `sound_on` is `ST != 0`; start and stop are its
edges. -/
def Obligations.SoundFollowsSoundTimer : Prop :=
  (∀ s t : State, step s = .next t ∨ tick s = .next t ∨ (∃ amid, tickAmid amid s = .next t) ∨
    applyHost (.boundary .reset) s = .next t → t.soundOn = (t.st != 0x00#8)) ∧
  (∀ s t : State, (audioEvent s t = some .start ↔ s.soundOn = false ∧ t.soundOn = true) ∧
    (audioEvent s t = some .stop ↔ s.soundOn = true ∧ t.soundOn = false))

/-! ### Whole-machine rules -/

/-- R22, R26, R31, R54, R164, R178, R222, R230: an instruction writes only the parts of the state its rule names; in particular
none writes user_paused, speed, sound_on, the key levels or the parameters, only LD Vx,K writes the mode, only CALL and RET the
fault latch. -/
def Obligations.InstructionsWriteOnlyTheirParts : Prop :=
  ∀ (i : Instr) (s t : State), exec i s = .next t → SameBut (mayWrite i) s t

/-- R20, R21: an instruction writes no general register but its destinations and, where its rule writes a flag, VF. -/
def Obligations.InstructionsWriteOnlyTheirRegisters : Prop :=
  ∀ (i : Instr) (s t : State), exec i s = .next t → SameRegsBut (destRegs i) s t

/-- R54, R55: every byte outside the addresses the instruction stores to reads as before; an instruction that stores nothing
leaves every byte. -/
def Obligations.InstructionsStoreOnlyTheirBytes : Prop :=
  ∀ (i : Instr) (s t : State), exec i s = .next t → ∀ a : Addr, a ∉ storedAddresses s i → readByte t a = readByte s a

/-- R223, R224, R237: no run of host operations without a reset, be it inside a tick, clears a recorded fault, restarts the machine or moves its
core state; every operation still completes. -/
def Obligations.OnlyResetLeavesHalt : Prop :=
  ∀ (ops : List HostOp) (s : State), s.fault ≠ .none → (∀ op ∈ ops, .reset ∉ op.boundaryOps) →
    ∃ t, runHost ops s = .next t ∧ SameBut [.userPaused, .speed, .mem, .soundOn, .keys] s t

/-- R174, R237 (vector E8): while a key-wait is pending, no run of host operations without a key press or a reset, be it inside a
tick, moves PC, a register, a timer or the mode. -/
def Obligations.KeyWaitBlocksUntilKeyPress : Prop :=
  ∀ (ops : List HostOp) (s : State) (x : Reg), s.mode = .awaitingKey x →
    (∀ op ∈ ops, .reset ∉ op.boundaryOps ∧ ∀ k, .keyPress k ∉ op.boundaryOps ∧ .keyDown k ∉ op.boundaryOps) →
    ∃ t, runHost ops s = .next t ∧ SameBut [.userPaused, .speed, .mem, .soundOn, .keys] s t

/-- R81, R193, R225: with parameters that give every instruction a meaning, no run of host operations from any state ends in
a stop of the model: the machine has no halt instruction, no trapping encoding and no faulting access. -/
def Obligations.EveryRunCompletes : Prop :=
  ∀ (ops : List HostOp) (s : State), FullyDefined s.config → ∃ t, runHost ops s = .next t ∧ t.config = s.config

/-! ### The invariant -/

/-- The invariant holds at `State.reset`, and at power-on under any legal parameters and key levels. -/
def Obligations.InvariantAtReset : Prop :=
  Inv State.reset ∧ ∀ (c : Config) (keys : KeyLevels), c.legal = true → Inv (powerOn c keys)

/-- R24, R34, R204, R220, R221: every step keeps the invariant: memory canonical, `speed` at least 1, an overflow recorded only
at SP = 16, an underflow only at SP = 0, `sound_on` sampled. -/
def Obligations.StepKeepsInvariant : Prop := ∀ s t : State, Inv s → step s = .next t → Inv t

/-- Every operation of the host, a whole tick with anything between its cycles included, keeps the invariant. -/
def Obligations.HostOperationsKeepInvariant : Prop :=
  ∀ (op : HostOp) (s t : State), Inv s → applyHost op s = .next t → Inv t
end

