-- ==== Sys2Proof/Machine/Assembly.lean ====
section
/-! DEFINITION. The notation in which the spec writes programs (30_encoding R82): its lines, the row of R76 a mnemonic with its
operands selects, and the bytes a program stands for. No machine operation uses it (log 32). -/

namespace Sys2Proof.Machine

/-- The mnemonics of R76's column "assembler syntax". -/
inductive Mnemonic where
  | sys | cls | ret | jp | call | se | sne | ld | add | or | and | xor | sub | shr | subn | shl | rnd | drw | skp | sknp
  deriving DecidableEq, Repr

/-- The operand kinds of R76's column "assembler syntax"; a number is an immediate of any width, a label stands for one. -/
inductive Operand where
  | reg (x : Reg)
  | num (n : Nat)
  | label (name : List Char)
  /-- `I` -/
  | index
  /-- `[I]` -/
  | atIndex
  /-- `DT` -/
  | delay
  /-- `ST` -/
  | sound
  /-- `K` -/
  | key
  /-- `F` -/
  | font
  /-- `B` -/
  | bcd
  deriving DecidableEq, Repr

/-- A line of a program (R82). -/
inductive SourceLine where
  /-- `name:`, the address of the next instruction -/
  | label (name : List Char)
  /-- `DB b, b, ...` -/
  | data (bytes : List Byte)
  | instr (m : Mnemonic) (operands : List Operand)
  deriving DecidableEq, Repr

/-- An immediate in its field of `w` bits, if it fits (R74). -/
def immediate (w n : Nat) : Option (BitVec w) := if n < 2 ^ w then some (BitVec.ofNat w n) else none

/-- The row a mnemonic with its operands selects (R76, R82), before R78's check. `SHR Vx` and `SHL Vx` take y = 0. -/
def selectRow : Mnemonic → List Operand → Option Instr
  | .sys, [.num n] => (immediate 12 n).map .sys
  | .cls, [] => some .cls
  | .ret, [] => some .ret
  | .jp, [.num n] => (immediate 12 n).map .jp
  | .jp, [.reg x, .num n] => if x = 0 then (immediate 12 n).map .jpV0 else none
  | .call, [.num n] => (immediate 12 n).map .call
  | .se, [.reg x, .num n] => (immediate 8 n).map (.seImm x)
  | .se, [.reg x, .reg y] => some (.seReg x y)
  | .sne, [.reg x, .num n] => (immediate 8 n).map (.sneImm x)
  | .sne, [.reg x, .reg y] => some (.sneReg x y)
  | .ld, [.reg x, .num n] => (immediate 8 n).map (.ldImm x)
  | .ld, [.reg x, .reg y] => some (.ldReg x y)
  | .ld, [.index, .num n] => (immediate 12 n).map .ldI
  | .ld, [.reg x, .delay] => some (.ldVxDt x)
  | .ld, [.reg x, .key] => some (.ldVxK x)
  | .ld, [.delay, .reg x] => some (.ldDtVx x)
  | .ld, [.sound, .reg x] => some (.ldStVx x)
  | .ld, [.font, .reg x] => some (.ldF x)
  | .ld, [.bcd, .reg x] => some (.ldB x)
  | .ld, [.atIndex, .reg x] => some (.ldMemVx x)
  | .ld, [.reg x, .atIndex] => some (.ldVxMem x)
  | .add, [.reg x, .num n] => (immediate 8 n).map (.addImm x)
  | .add, [.reg x, .reg y] => some (.addReg x y)
  | .add, [.index, .reg x] => some (.addI x)
  | .or, [.reg x, .reg y] => some (.orReg x y)
  | .and, [.reg x, .reg y] => some (.andReg x y)
  | .xor, [.reg x, .reg y] => some (.xorReg x y)
  | .sub, [.reg x, .reg y] => some (.sub x y)
  | .shr, [.reg x] => some (.shr x 0)
  | .shr, [.reg x, .reg y] => some (.shr x y)
  | .subn, [.reg x, .reg y] => some (.subn x y)
  | .shl, [.reg x] => some (.shl x 0)
  | .shl, [.reg x, .reg y] => some (.shl x y)
  | .rnd, [.reg x, .num n] => (immediate 8 n).map (.rnd x)
  | .drw, [.reg x, .reg y, .num n] => (immediate 4 n).map (.drw x y)
  | .skp, [.reg x] => some (.skp x)
  | .sknp, [.reg x] => some (.sknp x)
  | _, _ => none

/-- The line that stands for an instruction: its mnemonic and operands in R76's column "assembler syntax". -/
def assemblyOf : Instr → Mnemonic × List Operand
  | .sys nnn => (.sys, [.num nnn.toNat])
  | .cls => (.cls, [])
  | .ret => (.ret, [])
  | .jp nnn => (.jp, [.num nnn.toNat])
  | .call nnn => (.call, [.num nnn.toNat])
  | .seImm x nn => (.se, [.reg x, .num nn.toNat])
  | .sneImm x nn => (.sne, [.reg x, .num nn.toNat])
  | .seReg x y => (.se, [.reg x, .reg y])
  | .ldImm x nn => (.ld, [.reg x, .num nn.toNat])
  | .addImm x nn => (.add, [.reg x, .num nn.toNat])
  | .ldReg x y => (.ld, [.reg x, .reg y])
  | .orReg x y => (.or, [.reg x, .reg y])
  | .andReg x y => (.and, [.reg x, .reg y])
  | .xorReg x y => (.xor, [.reg x, .reg y])
  | .addReg x y => (.add, [.reg x, .reg y])
  | .sub x y => (.sub, [.reg x, .reg y])
  | .shr x y => (.shr, [.reg x, .reg y])
  | .subn x y => (.subn, [.reg x, .reg y])
  | .shl x y => (.shl, [.reg x, .reg y])
  | .sneReg x y => (.sne, [.reg x, .reg y])
  | .ldI nnn => (.ld, [.index, .num nnn.toNat])
  | .jpV0 nnn => (.jp, [.reg 0, .num nnn.toNat])
  | .rnd x nn => (.rnd, [.reg x, .num nn.toNat])
  | .drw x y n => (.drw, [.reg x, .reg y, .num n.toNat])
  | .skp x => (.skp, [.reg x])
  | .sknp x => (.sknp, [.reg x])
  | .ldVxDt x => (.ld, [.reg x, .delay])
  | .ldVxK x => (.ld, [.reg x, .key])
  | .ldDtVx x => (.ld, [.delay, .reg x])
  | .ldStVx x => (.ld, [.sound, .reg x])
  | .addI x => (.add, [.index, .reg x])
  | .ldF x => (.ld, [.font, .reg x])
  | .ldB x => (.ld, [.bcd, .reg x])
  | .ldMemVx x => (.ld, [.atIndex, .reg x])
  | .ldVxMem x => (.ld, [.reg x, .atIndex])

/-- How many bytes a line takes: an instruction is one 16-bit word, whatever it is. -/
def lineLength : SourceLine → Nat
  | .label _ => 0
  | .data bytes => bytes.length
  | .instr _ _ => 2

/-- Each label with the address of what follows it, the first line standing at `a`. -/
def labelTable (a : Nat) : List SourceLine → List (List Char × Nat)
  | [] => []
  | .label name :: ls => (name, a) :: labelTable a ls
  | line :: ls => labelTable (a + lineLength line) ls

/-- A label as the number it stands for; `none` if it is nowhere or at more than one place. -/
def resolveLabel (table : List (List Char × Nat)) (name : List Char) : Option Nat :=
  match table.filter fun entry => entry.1 == name with
  | [entry] => some entry.2
  | _ => none

/-- An operand with its label, if it is one, resolved. -/
def resolveOperand (table : List (List Char × Nat)) : Operand → Option Operand
  | .label name => (resolveLabel table name).map .num
  | o => some o

/-- The bytes of a line; an instruction's word has its high byte first (R71). -/
def lineBytes (table : List (List Char × Nat)) : SourceLine → Option (List Byte)
  | .label _ => some []
  | .data bytes => some bytes
  | .instr m operands =>
    match operands.mapM (resolveOperand table) with
    | none => none
    | some os =>
      match selectRow m os with
      | none => none
      | some i => if wellFormed i then some [highByte (encode i), lowByte (encode i)] else none

/-- The bytes of a program whose first line stands at `a` (0x200 where `loadProgram` places it, R264). -/
def assemble (a : Nat) (program : List SourceLine) : Option (List Byte) :=
  (program.mapM (lineBytes (labelTable a program))).map List.flatten

/-! ### The text of a line -/

/-- The digits as R82 and R20 write them, each at the place of its value; the first ten are the decimal ones. -/
def hexDigits : List Char := ['0', '1', '2', '3', '4', '5', '6', '7', '8', '9', 'A', 'B', 'C', 'D', 'E', 'F']

/-- The value of a digit: its place among the digits of the base; a small letter stands for its capital. -/
def digitValue (digits : List Char) (c : Char) : Option Nat := digits.idxOf? c.toUpper

/-- The number a text writes in the base whose digits are given; `none` if it is empty or holds anything else. -/
def readDigits (digits cs : List Char) : Option Nat :=
  if cs = [] then none
  else (cs.mapM (digitValue digits)).map fun values => Nat.ofDigits digits.length values.reverse

/-- A number: hexadecimal with `0x`, or decimal (R82). -/
def readNumber (cs : List Char) : Option Nat :=
  if ['0', 'x'].isPrefixOf cs then readDigits hexDigits (cs.drop 2) else readDigits (hexDigits.take 10) cs

/-- A register `V0`..`VF`, its index a hexadecimal digit. -/
def readRegister : List Char → Option Reg
  | ['V', d] => (digitValue hexDigits d).map (Fin.ofNat 16)
  | _ => none

/-- A name: not empty, of letters, digits and underscores, not begun by a digit. -/
def isName (cs : List Char) : Bool :=
  match cs with
  | [] => false
  | c :: _ => !c.isDigit && cs.all fun d => d.isAlphanum || d == '_'

/-- One operand: a special name, a register, a number, or else a label. -/
def readOperand (cs : List Char) : Option Operand :=
  if cs = ['I'] then some .index
  else if cs = ['[', 'I', ']'] then some .atIndex
  else if cs = ['D', 'T'] then some .delay
  else if cs = ['S', 'T'] then some .sound
  else if cs = ['K'] then some .key
  else if cs = ['F'] then some .font
  else if cs = ['B'] then some .bcd
  else
    match readRegister cs, readNumber cs with
    | some x, _ => some (.reg x)
    | none, some n => some (.num n)
    | none, none => if isName cs then some (.label cs) else none

/-- A mnemonic of R76. -/
def readMnemonic (cs : List Char) : Option Mnemonic :=
  [(['S', 'Y', 'S'], Mnemonic.sys), (['C', 'L', 'S'], .cls), (['R', 'E', 'T'], .ret), (['J', 'P'], .jp),
    (['C', 'A', 'L', 'L'], .call), (['S', 'E'], .se), (['S', 'N', 'E'], .sne), (['L', 'D'], .ld), (['A', 'D', 'D'], .add),
    (['O', 'R'], .or), (['A', 'N', 'D'], .and), (['X', 'O', 'R'], .xor), (['S', 'U', 'B'], .sub), (['S', 'H', 'R'], .shr),
    (['S', 'U', 'B', 'N'], .subn), (['S', 'H', 'L'], .shl), (['R', 'N', 'D'], .rnd), (['D', 'R', 'W'], .drw),
    (['S', 'K', 'P'], .skp), (['S', 'K', 'N', 'P'], .sknp)].lookup cs

/-- The text without the blanks at both ends. -/
def trim (cs : List Char) : List Char := ((cs.dropWhile (· == ' ')).reverse.dropWhile (· == ' ')).reverse

/-- The parts between the separators `c`. -/
def splitAt (c : Char) : List Char → List (List Char)
  | [] => [[]]
  | d :: ds =>
    if d = c then [] :: splitAt c ds
    else
      match splitAt c ds with
      | [] => [[d]]
      | part :: parts => (d :: part) :: parts

/-- The operands behind a mnemonic, separated by commas; none where nothing stands there. -/
def readOperands (cs : List Char) : Option (List Operand) :=
  if trim cs = [] then some [] else (splitAt ',' cs).mapM fun part => readOperand (trim part)

/-- A number as a data byte. -/
def readByteLiteral (cs : List Char) : Option Byte :=
  match readNumber (trim cs) with
  | some n => immediate 8 n
  | none => none

/-- What stands on a line behind its label: nothing, `DB` with its bytes, or one instruction. -/
def readStatement (cs : List Char) : Option (List SourceLine) :=
  let text := trim cs
  let word := text.takeWhile (· != ' ')
  let rest := text.dropWhile (· != ' ')
  if text = [] then some []
  else if word = ['D', 'B'] then ((splitAt ',' rest).mapM readByteLiteral).map fun bytes => [.data bytes]
  else
    match readMnemonic word, readOperands rest with
    | some m, some operands => some [.instr m operands]
    | _, _ => none

/-- A line: what stands behind `;` is a comment; a name followed by `:` is a label. -/
def readLine (cs : List Char) : Option (List SourceLine) :=
  let text := cs.takeWhile (· != ';')
  match splitAt ':' text with
  | [_] => readStatement text
  | [name, rest] => if isName (trim name) then (readStatement rest).map fun ls => .label (trim name) :: ls else none
  | _ => none

/-- The bytes of a program text, one instruction a line, the first line standing at `a`. -/
def assembleText (a : Nat) (text : List Char) : Option (List Byte) :=
  match (splitAt '\n' text).mapM readLine with
  | some lines => assemble a lines.flatten
  | none => none

end Sys2Proof.Machine
end

