-- ==== Sys2Proof/Laws/Assembly.lean ====
section
/-! SUPPORT. The line of an instruction selects that instruction's row (R82). -/

namespace Sys2Proof.Machine

@[simp] theorem immediate_toNat (w : Nat) (v : BitVec w) : immediate w v.toNat = some v := by
  simp [immediate, v.isLt]

/-- Every instruction has a line, and the line selects it: the mnemonic with its operand kinds names one row. -/
theorem selectRow_assemblyOf (i : Instr) : selectRow (assemblyOf i).1 (assemblyOf i).2 = some i := by
  cases i <;> simp [assemblyOf, selectRow]

end Sys2Proof.Machine
end

