-- ==== Sys2Proof/Laws/Decode.lean ====
section
/-! SUPPORT. The fields of a word put together from fields, and a word as the composition of its fields (R72, R73). -/

namespace Sys2Proof

/-! ### Format NNN -/

@[simp] theorem opField_encodeNNN (op : Nibble) (nnn : Addr) : opField (encodeNNN op nnn) = op := by
  apply BitVec.eq_of_getLsbD_eq
  intro i h
  simp only [opField, encodeNNN, BitVec.getLsbD_extractLsb', BitVec.getLsbD_append]
  simp [h]

@[simp] theorem nnnField_encodeNNN (op : Nibble) (nnn : Addr) : nnnField (encodeNNN op nnn) = nnn := by
  apply BitVec.eq_of_getLsbD_eq
  intro i h
  simp only [nnnField, encodeNNN, BitVec.getLsbD_extractLsb', BitVec.getLsbD_append]
  simp [h]

/-! ### Formats XNN and X -/

@[simp] theorem opField_encodeXNN (op : Nibble) (x : Reg) (nn : Byte) : opField (encodeXNN op x nn) = op := by
  apply BitVec.eq_of_getLsbD_eq
  intro i h
  simp only [opField, encodeXNN, BitVec.getLsbD_extractLsb', BitVec.getLsbD_append]
  interval_cases i <;> simp

@[simp] theorem xField_encodeXNN (op : Nibble) (x : Reg) (nn : Byte) : xField (encodeXNN op x nn) = x := by
  have h : (encodeXNN op x nn).extractLsb' 8 4 = regField x := by
    apply BitVec.eq_of_getLsbD_eq
    intro i h
    simp only [encodeXNN, BitVec.getLsbD_extractLsb', BitVec.getLsbD_append]
    interval_cases i <;> simp
  rw [xField, h]
  rfl

@[simp] theorem nnField_encodeXNN (op : Nibble) (x : Reg) (nn : Byte) : nnField (encodeXNN op x nn) = nn := by
  apply BitVec.eq_of_getLsbD_eq
  intro i h
  simp only [nnField, encodeXNN, BitVec.getLsbD_extractLsb', BitVec.getLsbD_append]
  simp [h]

/-! ### Formats XYN and XY -/

@[simp] theorem opField_encodeXYN (op n : Nibble) (x y : Reg) : opField (encodeXYN op x y n) = op := by
  apply BitVec.eq_of_getLsbD_eq
  intro i h
  simp only [opField, encodeXYN, BitVec.getLsbD_extractLsb', BitVec.getLsbD_append]
  interval_cases i <;> simp

@[simp] theorem xField_encodeXYN (op n : Nibble) (x y : Reg) : xField (encodeXYN op x y n) = x := by
  have h : (encodeXYN op x y n).extractLsb' 8 4 = regField x := by
    apply BitVec.eq_of_getLsbD_eq
    intro i h
    simp only [encodeXYN, BitVec.getLsbD_extractLsb', BitVec.getLsbD_append]
    interval_cases i <;> simp
  rw [xField, h]
  rfl

@[simp] theorem yField_encodeXYN (op n : Nibble) (x y : Reg) : yField (encodeXYN op x y n) = y := by
  have h : (encodeXYN op x y n).extractLsb' 4 4 = regField y := by
    apply BitVec.eq_of_getLsbD_eq
    intro i h
    simp only [encodeXYN, BitVec.getLsbD_extractLsb', BitVec.getLsbD_append]
    interval_cases i <;> simp
  rw [yField, h]
  rfl

@[simp] theorem nField_encodeXYN (op n : Nibble) (x y : Reg) : nField (encodeXYN op x y n) = n := by
  apply BitVec.eq_of_getLsbD_eq
  intro i h
  simp only [nField, encodeXYN, BitVec.getLsbD_extractLsb', BitVec.getLsbD_append]
  simp [h]

/-! ### A word is the composition of its fields -/

theorem encodeNNN_fields (w : Word) : encodeNNN (opField w) (nnnField w) = w := by
  apply BitVec.eq_of_getLsbD_eq
  intro i h
  simp only [encodeNNN, opField, nnnField, BitVec.getLsbD_extractLsb', BitVec.getLsbD_append]
  interval_cases i <;> simp

theorem encodeXNN_fields (w : Word) : encodeXNN (opField w) (xField w) (nnField w) = w := by
  have hx : regField (xField w) = w.extractLsb' 8 4 := rfl
  apply BitVec.eq_of_getLsbD_eq
  intro i h
  simp only [encodeXNN, hx, opField, nnField, BitVec.getLsbD_extractLsb', BitVec.getLsbD_append]
  interval_cases i <;> simp

theorem encodeXYN_fields (w : Word) : encodeXYN (opField w) (xField w) (yField w) (nField w) = w := by
  have hx : regField (xField w) = w.extractLsb' 8 4 := rfl
  have hy : regField (yField w) = w.extractLsb' 4 4 := rfl
  apply BitVec.eq_of_getLsbD_eq
  intro i h
  simp only [encodeXYN, hx, hy, opField, nField, BitVec.getLsbD_extractLsb', BitVec.getLsbD_append]
  interval_cases i <;> simp

/-- A word laid out in two bytes of memory and put together again (R71). -/
theorem wordOfBytes_bytes (w : Word) : wordOfBytes (highByte w) (lowByte w) = w := by
  apply BitVec.eq_of_getLsbD_eq
  intro i h
  simp only [wordOfBytes, highByte, lowByte, BitVec.getLsbD_extractLsb', BitVec.getLsbD_append]
  interval_cases i <;> simp

/-! ### The two bytes of a word in memory (R71) -/

@[simp] theorem highByte_wordOfBytes (hi lo : Byte) : highByte (wordOfBytes hi lo) = hi := by
  apply BitVec.eq_of_getLsbD_eq
  intro k hk
  simp only [highByte, wordOfBytes, BitVec.getLsbD_extractLsb', BitVec.getLsbD_append]
  interval_cases k <;> simp

@[simp] theorem lowByte_wordOfBytes (hi lo : Byte) : lowByte (wordOfBytes hi lo) = lo := by
  apply BitVec.eq_of_getLsbD_eq
  intro k hk
  simp only [lowByte, wordOfBytes, BitVec.getLsbD_extractLsb', BitVec.getLsbD_append]
  interval_cases k <;> simp

end Sys2Proof
end

