-- ==== Sys2Proof/Laws/State.lean ====
section
/-! SUPPORT. One lemma per field per named update of the state, true by `rfl`: later proofs never unfold a record update. -/

namespace Sys2Proof.Machine

/-! ### writeReg -/

@[simp] theorem writeReg_v (s : State) (x : Reg) (b : Byte) : (writeReg s x b).v = s.v.set x.val b := rfl
@[simp] theorem writeReg_i (s : State) (x : Reg) (b : Byte) : (writeReg s x b).i = s.i := rfl
@[simp] theorem writeReg_pc (s : State) (x : Reg) (b : Byte) : (writeReg s x b).pc = s.pc := rfl
@[simp] theorem writeReg_stack (s : State) (x : Reg) (b : Byte) : (writeReg s x b).stack = s.stack := rfl
@[simp] theorem writeReg_sp (s : State) (x : Reg) (b : Byte) : (writeReg s x b).sp = s.sp := rfl
@[simp] theorem writeReg_dt (s : State) (x : Reg) (b : Byte) : (writeReg s x b).dt = s.dt := rfl
@[simp] theorem writeReg_st (s : State) (x : Reg) (b : Byte) : (writeReg s x b).st = s.st := rfl
@[simp] theorem writeReg_mode (s : State) (x : Reg) (b : Byte) : (writeReg s x b).mode = s.mode := rfl
@[simp] theorem writeReg_userPaused (s : State) (x : Reg) (b : Byte) : (writeReg s x b).userPaused = s.userPaused := rfl
@[simp] theorem writeReg_speed (s : State) (x : Reg) (b : Byte) : (writeReg s x b).speed = s.speed := rfl
@[simp] theorem writeReg_fault (s : State) (x : Reg) (b : Byte) : (writeReg s x b).fault = s.fault := rfl
@[simp] theorem writeReg_mem (s : State) (x : Reg) (b : Byte) : (writeReg s x b).mem = s.mem := rfl
@[simp] theorem writeReg_soundOn (s : State) (x : Reg) (b : Byte) : (writeReg s x b).soundOn = s.soundOn := rfl
@[simp] theorem writeReg_fb (s : State) (x : Reg) (b : Byte) : (writeReg s x b).fb = s.fb := rfl
@[simp] theorem writeReg_keys (s : State) (x : Reg) (b : Byte) : (writeReg s x b).keys = s.keys := rfl
@[simp] theorem writeReg_draws (s : State) (x : Reg) (b : Byte) : (writeReg s x b).draws = s.draws := rfl
@[simp] theorem writeReg_config (s : State) (x : Reg) (b : Byte) : (writeReg s x b).config = s.config := rfl

/-! ### setI -/

@[simp] theorem setI_v (s : State) (a : Addr) : (setI s a).v = s.v := rfl
@[simp] theorem setI_i (s : State) (a : Addr) : (setI s a).i = a := rfl
@[simp] theorem setI_pc (s : State) (a : Addr) : (setI s a).pc = s.pc := rfl
@[simp] theorem setI_stack (s : State) (a : Addr) : (setI s a).stack = s.stack := rfl
@[simp] theorem setI_sp (s : State) (a : Addr) : (setI s a).sp = s.sp := rfl
@[simp] theorem setI_dt (s : State) (a : Addr) : (setI s a).dt = s.dt := rfl
@[simp] theorem setI_st (s : State) (a : Addr) : (setI s a).st = s.st := rfl
@[simp] theorem setI_mode (s : State) (a : Addr) : (setI s a).mode = s.mode := rfl
@[simp] theorem setI_userPaused (s : State) (a : Addr) : (setI s a).userPaused = s.userPaused := rfl
@[simp] theorem setI_speed (s : State) (a : Addr) : (setI s a).speed = s.speed := rfl
@[simp] theorem setI_fault (s : State) (a : Addr) : (setI s a).fault = s.fault := rfl
@[simp] theorem setI_mem (s : State) (a : Addr) : (setI s a).mem = s.mem := rfl
@[simp] theorem setI_soundOn (s : State) (a : Addr) : (setI s a).soundOn = s.soundOn := rfl
@[simp] theorem setI_fb (s : State) (a : Addr) : (setI s a).fb = s.fb := rfl
@[simp] theorem setI_keys (s : State) (a : Addr) : (setI s a).keys = s.keys := rfl
@[simp] theorem setI_draws (s : State) (a : Addr) : (setI s a).draws = s.draws := rfl
@[simp] theorem setI_config (s : State) (a : Addr) : (setI s a).config = s.config := rfl

/-! ### setPc -/

@[simp] theorem setPc_v (s : State) (a : Addr) : (setPc s a).v = s.v := rfl
@[simp] theorem setPc_i (s : State) (a : Addr) : (setPc s a).i = s.i := rfl
@[simp] theorem setPc_pc (s : State) (a : Addr) : (setPc s a).pc = a := rfl
@[simp] theorem setPc_stack (s : State) (a : Addr) : (setPc s a).stack = s.stack := rfl
@[simp] theorem setPc_sp (s : State) (a : Addr) : (setPc s a).sp = s.sp := rfl
@[simp] theorem setPc_dt (s : State) (a : Addr) : (setPc s a).dt = s.dt := rfl
@[simp] theorem setPc_st (s : State) (a : Addr) : (setPc s a).st = s.st := rfl
@[simp] theorem setPc_mode (s : State) (a : Addr) : (setPc s a).mode = s.mode := rfl
@[simp] theorem setPc_userPaused (s : State) (a : Addr) : (setPc s a).userPaused = s.userPaused := rfl
@[simp] theorem setPc_speed (s : State) (a : Addr) : (setPc s a).speed = s.speed := rfl
@[simp] theorem setPc_fault (s : State) (a : Addr) : (setPc s a).fault = s.fault := rfl
@[simp] theorem setPc_mem (s : State) (a : Addr) : (setPc s a).mem = s.mem := rfl
@[simp] theorem setPc_soundOn (s : State) (a : Addr) : (setPc s a).soundOn = s.soundOn := rfl
@[simp] theorem setPc_fb (s : State) (a : Addr) : (setPc s a).fb = s.fb := rfl
@[simp] theorem setPc_keys (s : State) (a : Addr) : (setPc s a).keys = s.keys := rfl
@[simp] theorem setPc_draws (s : State) (a : Addr) : (setPc s a).draws = s.draws := rfl
@[simp] theorem setPc_config (s : State) (a : Addr) : (setPc s a).config = s.config := rfl

/-! ### advancePc -/

@[simp] theorem advancePc_v (s : State) : (advancePc s).v = s.v := rfl
@[simp] theorem advancePc_i (s : State) : (advancePc s).i = s.i := rfl
@[simp] theorem advancePc_pc (s : State) : (advancePc s).pc = s.pc + 2#12 := rfl
@[simp] theorem advancePc_stack (s : State) : (advancePc s).stack = s.stack := rfl
@[simp] theorem advancePc_sp (s : State) : (advancePc s).sp = s.sp := rfl
@[simp] theorem advancePc_dt (s : State) : (advancePc s).dt = s.dt := rfl
@[simp] theorem advancePc_st (s : State) : (advancePc s).st = s.st := rfl
@[simp] theorem advancePc_mode (s : State) : (advancePc s).mode = s.mode := rfl
@[simp] theorem advancePc_userPaused (s : State) : (advancePc s).userPaused = s.userPaused := rfl
@[simp] theorem advancePc_speed (s : State) : (advancePc s).speed = s.speed := rfl
@[simp] theorem advancePc_fault (s : State) : (advancePc s).fault = s.fault := rfl
@[simp] theorem advancePc_mem (s : State) : (advancePc s).mem = s.mem := rfl
@[simp] theorem advancePc_soundOn (s : State) : (advancePc s).soundOn = s.soundOn := rfl
@[simp] theorem advancePc_fb (s : State) : (advancePc s).fb = s.fb := rfl
@[simp] theorem advancePc_keys (s : State) : (advancePc s).keys = s.keys := rfl
@[simp] theorem advancePc_draws (s : State) : (advancePc s).draws = s.draws := rfl
@[simp] theorem advancePc_config (s : State) : (advancePc s).config = s.config := rfl

/-! ### pushReturn -/

@[simp] theorem pushReturn_v (s : State) (h : s.sp.val < 16) : (pushReturn s h).v = s.v := rfl
@[simp] theorem pushReturn_i (s : State) (h : s.sp.val < 16) : (pushReturn s h).i = s.i := rfl
@[simp] theorem pushReturn_pc (s : State) (h : s.sp.val < 16) : (pushReturn s h).pc = s.pc := rfl
@[simp] theorem pushReturn_stack (s : State) (h : s.sp.val < 16) : (pushReturn s h).stack = s.stack.set s.sp.val s.pc := rfl
@[simp] theorem pushReturn_sp (s : State) (h : s.sp.val < 16) : (pushReturn s h).sp = ⟨s.sp.val + 1, by omega⟩ := rfl
@[simp] theorem pushReturn_dt (s : State) (h : s.sp.val < 16) : (pushReturn s h).dt = s.dt := rfl
@[simp] theorem pushReturn_st (s : State) (h : s.sp.val < 16) : (pushReturn s h).st = s.st := rfl
@[simp] theorem pushReturn_mode (s : State) (h : s.sp.val < 16) : (pushReturn s h).mode = s.mode := rfl
@[simp] theorem pushReturn_userPaused (s : State) (h : s.sp.val < 16) : (pushReturn s h).userPaused = s.userPaused := rfl
@[simp] theorem pushReturn_speed (s : State) (h : s.sp.val < 16) : (pushReturn s h).speed = s.speed := rfl
@[simp] theorem pushReturn_fault (s : State) (h : s.sp.val < 16) : (pushReturn s h).fault = s.fault := rfl
@[simp] theorem pushReturn_mem (s : State) (h : s.sp.val < 16) : (pushReturn s h).mem = s.mem := rfl
@[simp] theorem pushReturn_soundOn (s : State) (h : s.sp.val < 16) : (pushReturn s h).soundOn = s.soundOn := rfl
@[simp] theorem pushReturn_fb (s : State) (h : s.sp.val < 16) : (pushReturn s h).fb = s.fb := rfl
@[simp] theorem pushReturn_keys (s : State) (h : s.sp.val < 16) : (pushReturn s h).keys = s.keys := rfl
@[simp] theorem pushReturn_draws (s : State) (h : s.sp.val < 16) : (pushReturn s h).draws = s.draws := rfl
@[simp] theorem pushReturn_config (s : State) (h : s.sp.val < 16) : (pushReturn s h).config = s.config := rfl

/-! ### popReturn -/

@[simp] theorem popReturn_v (s : State) : (popReturn s).v = s.v := rfl
@[simp] theorem popReturn_i (s : State) : (popReturn s).i = s.i := rfl
@[simp] theorem popReturn_pc (s : State) : (popReturn s).pc = s.pc := rfl
@[simp] theorem popReturn_stack (s : State) : (popReturn s).stack = s.stack := rfl
@[simp] theorem popReturn_sp (s : State) : (popReturn s).sp = ⟨s.sp.val - 1, by omega⟩ := rfl
@[simp] theorem popReturn_dt (s : State) : (popReturn s).dt = s.dt := rfl
@[simp] theorem popReturn_st (s : State) : (popReturn s).st = s.st := rfl
@[simp] theorem popReturn_mode (s : State) : (popReturn s).mode = s.mode := rfl
@[simp] theorem popReturn_userPaused (s : State) : (popReturn s).userPaused = s.userPaused := rfl
@[simp] theorem popReturn_speed (s : State) : (popReturn s).speed = s.speed := rfl
@[simp] theorem popReturn_fault (s : State) : (popReturn s).fault = s.fault := rfl
@[simp] theorem popReturn_mem (s : State) : (popReturn s).mem = s.mem := rfl
@[simp] theorem popReturn_soundOn (s : State) : (popReturn s).soundOn = s.soundOn := rfl
@[simp] theorem popReturn_fb (s : State) : (popReturn s).fb = s.fb := rfl
@[simp] theorem popReturn_keys (s : State) : (popReturn s).keys = s.keys := rfl
@[simp] theorem popReturn_draws (s : State) : (popReturn s).draws = s.draws := rfl
@[simp] theorem popReturn_config (s : State) : (popReturn s).config = s.config := rfl

/-! ### setDt -/

@[simp] theorem setDt_v (s : State) (b : Byte) : (setDt s b).v = s.v := rfl
@[simp] theorem setDt_i (s : State) (b : Byte) : (setDt s b).i = s.i := rfl
@[simp] theorem setDt_pc (s : State) (b : Byte) : (setDt s b).pc = s.pc := rfl
@[simp] theorem setDt_stack (s : State) (b : Byte) : (setDt s b).stack = s.stack := rfl
@[simp] theorem setDt_sp (s : State) (b : Byte) : (setDt s b).sp = s.sp := rfl
@[simp] theorem setDt_dt (s : State) (b : Byte) : (setDt s b).dt = b := rfl
@[simp] theorem setDt_st (s : State) (b : Byte) : (setDt s b).st = s.st := rfl
@[simp] theorem setDt_mode (s : State) (b : Byte) : (setDt s b).mode = s.mode := rfl
@[simp] theorem setDt_userPaused (s : State) (b : Byte) : (setDt s b).userPaused = s.userPaused := rfl
@[simp] theorem setDt_speed (s : State) (b : Byte) : (setDt s b).speed = s.speed := rfl
@[simp] theorem setDt_fault (s : State) (b : Byte) : (setDt s b).fault = s.fault := rfl
@[simp] theorem setDt_mem (s : State) (b : Byte) : (setDt s b).mem = s.mem := rfl
@[simp] theorem setDt_soundOn (s : State) (b : Byte) : (setDt s b).soundOn = s.soundOn := rfl
@[simp] theorem setDt_fb (s : State) (b : Byte) : (setDt s b).fb = s.fb := rfl
@[simp] theorem setDt_keys (s : State) (b : Byte) : (setDt s b).keys = s.keys := rfl
@[simp] theorem setDt_draws (s : State) (b : Byte) : (setDt s b).draws = s.draws := rfl
@[simp] theorem setDt_config (s : State) (b : Byte) : (setDt s b).config = s.config := rfl

/-! ### setSt -/

@[simp] theorem setSt_v (s : State) (b : Byte) : (setSt s b).v = s.v := rfl
@[simp] theorem setSt_i (s : State) (b : Byte) : (setSt s b).i = s.i := rfl
@[simp] theorem setSt_pc (s : State) (b : Byte) : (setSt s b).pc = s.pc := rfl
@[simp] theorem setSt_stack (s : State) (b : Byte) : (setSt s b).stack = s.stack := rfl
@[simp] theorem setSt_sp (s : State) (b : Byte) : (setSt s b).sp = s.sp := rfl
@[simp] theorem setSt_dt (s : State) (b : Byte) : (setSt s b).dt = s.dt := rfl
@[simp] theorem setSt_st (s : State) (b : Byte) : (setSt s b).st = b := rfl
@[simp] theorem setSt_mode (s : State) (b : Byte) : (setSt s b).mode = s.mode := rfl
@[simp] theorem setSt_userPaused (s : State) (b : Byte) : (setSt s b).userPaused = s.userPaused := rfl
@[simp] theorem setSt_speed (s : State) (b : Byte) : (setSt s b).speed = s.speed := rfl
@[simp] theorem setSt_fault (s : State) (b : Byte) : (setSt s b).fault = s.fault := rfl
@[simp] theorem setSt_mem (s : State) (b : Byte) : (setSt s b).mem = s.mem := rfl
@[simp] theorem setSt_soundOn (s : State) (b : Byte) : (setSt s b).soundOn = s.soundOn := rfl
@[simp] theorem setSt_fb (s : State) (b : Byte) : (setSt s b).fb = s.fb := rfl
@[simp] theorem setSt_keys (s : State) (b : Byte) : (setSt s b).keys = s.keys := rfl
@[simp] theorem setSt_draws (s : State) (b : Byte) : (setSt s b).draws = s.draws := rfl
@[simp] theorem setSt_config (s : State) (b : Byte) : (setSt s b).config = s.config := rfl

/-! ### decrementTimers -/

@[simp] theorem decrementTimers_v (s : State) : (decrementTimers s).v = s.v := rfl
@[simp] theorem decrementTimers_i (s : State) : (decrementTimers s).i = s.i := rfl
@[simp] theorem decrementTimers_pc (s : State) : (decrementTimers s).pc = s.pc := rfl
@[simp] theorem decrementTimers_stack (s : State) : (decrementTimers s).stack = s.stack := rfl
@[simp] theorem decrementTimers_sp (s : State) : (decrementTimers s).sp = s.sp := rfl
@[simp] theorem decrementTimers_dt (s : State) : (decrementTimers s).dt = countDown s.dt := rfl
@[simp] theorem decrementTimers_st (s : State) : (decrementTimers s).st = countDown s.st := rfl
@[simp] theorem decrementTimers_mode (s : State) : (decrementTimers s).mode = s.mode := rfl
@[simp] theorem decrementTimers_userPaused (s : State) : (decrementTimers s).userPaused = s.userPaused := rfl
@[simp] theorem decrementTimers_speed (s : State) : (decrementTimers s).speed = s.speed := rfl
@[simp] theorem decrementTimers_fault (s : State) : (decrementTimers s).fault = s.fault := rfl
@[simp] theorem decrementTimers_mem (s : State) : (decrementTimers s).mem = s.mem := rfl
@[simp] theorem decrementTimers_soundOn (s : State) : (decrementTimers s).soundOn = s.soundOn := rfl
@[simp] theorem decrementTimers_fb (s : State) : (decrementTimers s).fb = s.fb := rfl
@[simp] theorem decrementTimers_keys (s : State) : (decrementTimers s).keys = s.keys := rfl
@[simp] theorem decrementTimers_draws (s : State) : (decrementTimers s).draws = s.draws := rfl
@[simp] theorem decrementTimers_config (s : State) : (decrementTimers s).config = s.config := rfl

/-! ### setMode -/

@[simp] theorem setMode_v (s : State) (m : Mode) : (setMode s m).v = s.v := rfl
@[simp] theorem setMode_i (s : State) (m : Mode) : (setMode s m).i = s.i := rfl
@[simp] theorem setMode_pc (s : State) (m : Mode) : (setMode s m).pc = s.pc := rfl
@[simp] theorem setMode_stack (s : State) (m : Mode) : (setMode s m).stack = s.stack := rfl
@[simp] theorem setMode_sp (s : State) (m : Mode) : (setMode s m).sp = s.sp := rfl
@[simp] theorem setMode_dt (s : State) (m : Mode) : (setMode s m).dt = s.dt := rfl
@[simp] theorem setMode_st (s : State) (m : Mode) : (setMode s m).st = s.st := rfl
@[simp] theorem setMode_mode (s : State) (m : Mode) : (setMode s m).mode = m := rfl
@[simp] theorem setMode_userPaused (s : State) (m : Mode) : (setMode s m).userPaused = s.userPaused := rfl
@[simp] theorem setMode_speed (s : State) (m : Mode) : (setMode s m).speed = s.speed := rfl
@[simp] theorem setMode_fault (s : State) (m : Mode) : (setMode s m).fault = s.fault := rfl
@[simp] theorem setMode_mem (s : State) (m : Mode) : (setMode s m).mem = s.mem := rfl
@[simp] theorem setMode_soundOn (s : State) (m : Mode) : (setMode s m).soundOn = s.soundOn := rfl
@[simp] theorem setMode_fb (s : State) (m : Mode) : (setMode s m).fb = s.fb := rfl
@[simp] theorem setMode_keys (s : State) (m : Mode) : (setMode s m).keys = s.keys := rfl
@[simp] theorem setMode_draws (s : State) (m : Mode) : (setMode s m).draws = s.draws := rfl
@[simp] theorem setMode_config (s : State) (m : Mode) : (setMode s m).config = s.config := rfl

/-! ### setFault -/

@[simp] theorem setFault_v (s : State) (e : FaultLatch) : (setFault s e).v = s.v := rfl
@[simp] theorem setFault_i (s : State) (e : FaultLatch) : (setFault s e).i = s.i := rfl
@[simp] theorem setFault_pc (s : State) (e : FaultLatch) : (setFault s e).pc = s.pc := rfl
@[simp] theorem setFault_stack (s : State) (e : FaultLatch) : (setFault s e).stack = s.stack := rfl
@[simp] theorem setFault_sp (s : State) (e : FaultLatch) : (setFault s e).sp = s.sp := rfl
@[simp] theorem setFault_dt (s : State) (e : FaultLatch) : (setFault s e).dt = s.dt := rfl
@[simp] theorem setFault_st (s : State) (e : FaultLatch) : (setFault s e).st = s.st := rfl
@[simp] theorem setFault_mode (s : State) (e : FaultLatch) : (setFault s e).mode = s.mode := rfl
@[simp] theorem setFault_userPaused (s : State) (e : FaultLatch) : (setFault s e).userPaused = s.userPaused := rfl
@[simp] theorem setFault_speed (s : State) (e : FaultLatch) : (setFault s e).speed = s.speed := rfl
@[simp] theorem setFault_fault (s : State) (e : FaultLatch) : (setFault s e).fault = e := rfl
@[simp] theorem setFault_mem (s : State) (e : FaultLatch) : (setFault s e).mem = s.mem := rfl
@[simp] theorem setFault_soundOn (s : State) (e : FaultLatch) : (setFault s e).soundOn = s.soundOn := rfl
@[simp] theorem setFault_fb (s : State) (e : FaultLatch) : (setFault s e).fb = s.fb := rfl
@[simp] theorem setFault_keys (s : State) (e : FaultLatch) : (setFault s e).keys = s.keys := rfl
@[simp] theorem setFault_draws (s : State) (e : FaultLatch) : (setFault s e).draws = s.draws := rfl
@[simp] theorem setFault_config (s : State) (e : FaultLatch) : (setFault s e).config = s.config := rfl

/-! ### setKeyLevel -/

@[simp] theorem setKeyLevel_v (s : State) (k : Key) (d : Bool) : (setKeyLevel s k d).v = s.v := rfl
@[simp] theorem setKeyLevel_i (s : State) (k : Key) (d : Bool) : (setKeyLevel s k d).i = s.i := rfl
@[simp] theorem setKeyLevel_pc (s : State) (k : Key) (d : Bool) : (setKeyLevel s k d).pc = s.pc := rfl
@[simp] theorem setKeyLevel_stack (s : State) (k : Key) (d : Bool) : (setKeyLevel s k d).stack = s.stack := rfl
@[simp] theorem setKeyLevel_sp (s : State) (k : Key) (d : Bool) : (setKeyLevel s k d).sp = s.sp := rfl
@[simp] theorem setKeyLevel_dt (s : State) (k : Key) (d : Bool) : (setKeyLevel s k d).dt = s.dt := rfl
@[simp] theorem setKeyLevel_st (s : State) (k : Key) (d : Bool) : (setKeyLevel s k d).st = s.st := rfl
@[simp] theorem setKeyLevel_mode (s : State) (k : Key) (d : Bool) : (setKeyLevel s k d).mode = s.mode := rfl
@[simp] theorem setKeyLevel_userPaused (s : State) (k : Key) (d : Bool) : (setKeyLevel s k d).userPaused = s.userPaused := rfl
@[simp] theorem setKeyLevel_speed (s : State) (k : Key) (d : Bool) : (setKeyLevel s k d).speed = s.speed := rfl
@[simp] theorem setKeyLevel_fault (s : State) (k : Key) (d : Bool) : (setKeyLevel s k d).fault = s.fault := rfl
@[simp] theorem setKeyLevel_mem (s : State) (k : Key) (d : Bool) : (setKeyLevel s k d).mem = s.mem := rfl
@[simp] theorem setKeyLevel_soundOn (s : State) (k : Key) (d : Bool) : (setKeyLevel s k d).soundOn = s.soundOn := rfl
@[simp] theorem setKeyLevel_fb (s : State) (k : Key) (d : Bool) : (setKeyLevel s k d).fb = s.fb := rfl
@[simp] theorem setKeyLevel_keys (s : State) (k : Key) (d : Bool) : (setKeyLevel s k d).keys = s.keys.set k.val d := rfl
@[simp] theorem setKeyLevel_draws (s : State) (k : Key) (d : Bool) : (setKeyLevel s k d).draws = s.draws := rfl
@[simp] theorem setKeyLevel_config (s : State) (k : Key) (d : Bool) : (setKeyLevel s k d).config = s.config := rfl

/-! ### setFb -/

@[simp] theorem setFb_v (s : State) (fb : Framebuffer) : (setFb s fb).v = s.v := rfl
@[simp] theorem setFb_i (s : State) (fb : Framebuffer) : (setFb s fb).i = s.i := rfl
@[simp] theorem setFb_pc (s : State) (fb : Framebuffer) : (setFb s fb).pc = s.pc := rfl
@[simp] theorem setFb_stack (s : State) (fb : Framebuffer) : (setFb s fb).stack = s.stack := rfl
@[simp] theorem setFb_sp (s : State) (fb : Framebuffer) : (setFb s fb).sp = s.sp := rfl
@[simp] theorem setFb_dt (s : State) (fb : Framebuffer) : (setFb s fb).dt = s.dt := rfl
@[simp] theorem setFb_st (s : State) (fb : Framebuffer) : (setFb s fb).st = s.st := rfl
@[simp] theorem setFb_mode (s : State) (fb : Framebuffer) : (setFb s fb).mode = s.mode := rfl
@[simp] theorem setFb_userPaused (s : State) (fb : Framebuffer) : (setFb s fb).userPaused = s.userPaused := rfl
@[simp] theorem setFb_speed (s : State) (fb : Framebuffer) : (setFb s fb).speed = s.speed := rfl
@[simp] theorem setFb_fault (s : State) (fb : Framebuffer) : (setFb s fb).fault = s.fault := rfl
@[simp] theorem setFb_mem (s : State) (fb : Framebuffer) : (setFb s fb).mem = s.mem := rfl
@[simp] theorem setFb_soundOn (s : State) (fb : Framebuffer) : (setFb s fb).soundOn = s.soundOn := rfl
@[simp] theorem setFb_fb (s : State) (fb : Framebuffer) : (setFb s fb).fb = fb := rfl
@[simp] theorem setFb_keys (s : State) (fb : Framebuffer) : (setFb s fb).keys = s.keys := rfl
@[simp] theorem setFb_draws (s : State) (fb : Framebuffer) : (setFb s fb).draws = s.draws := rfl
@[simp] theorem setFb_config (s : State) (fb : Framebuffer) : (setFb s fb).config = s.config := rfl

/-! ### countDraw -/

@[simp] theorem countDraw_v (s : State) : (countDraw s).v = s.v := rfl
@[simp] theorem countDraw_i (s : State) : (countDraw s).i = s.i := rfl
@[simp] theorem countDraw_pc (s : State) : (countDraw s).pc = s.pc := rfl
@[simp] theorem countDraw_stack (s : State) : (countDraw s).stack = s.stack := rfl
@[simp] theorem countDraw_sp (s : State) : (countDraw s).sp = s.sp := rfl
@[simp] theorem countDraw_dt (s : State) : (countDraw s).dt = s.dt := rfl
@[simp] theorem countDraw_st (s : State) : (countDraw s).st = s.st := rfl
@[simp] theorem countDraw_mode (s : State) : (countDraw s).mode = s.mode := rfl
@[simp] theorem countDraw_userPaused (s : State) : (countDraw s).userPaused = s.userPaused := rfl
@[simp] theorem countDraw_speed (s : State) : (countDraw s).speed = s.speed := rfl
@[simp] theorem countDraw_fault (s : State) : (countDraw s).fault = s.fault := rfl
@[simp] theorem countDraw_mem (s : State) : (countDraw s).mem = s.mem := rfl
@[simp] theorem countDraw_soundOn (s : State) : (countDraw s).soundOn = s.soundOn := rfl
@[simp] theorem countDraw_fb (s : State) : (countDraw s).fb = s.fb := rfl
@[simp] theorem countDraw_keys (s : State) : (countDraw s).keys = s.keys := rfl
@[simp] theorem countDraw_draws (s : State) : (countDraw s).draws = s.draws + 1 := rfl
@[simp] theorem countDraw_config (s : State) : (countDraw s).config = s.config := rfl

/-! ### sampleSound -/

@[simp] theorem sampleSound_v (s : State) : (sampleSound s).v = s.v := rfl
@[simp] theorem sampleSound_i (s : State) : (sampleSound s).i = s.i := rfl
@[simp] theorem sampleSound_pc (s : State) : (sampleSound s).pc = s.pc := rfl
@[simp] theorem sampleSound_stack (s : State) : (sampleSound s).stack = s.stack := rfl
@[simp] theorem sampleSound_sp (s : State) : (sampleSound s).sp = s.sp := rfl
@[simp] theorem sampleSound_dt (s : State) : (sampleSound s).dt = s.dt := rfl
@[simp] theorem sampleSound_st (s : State) : (sampleSound s).st = s.st := rfl
@[simp] theorem sampleSound_mode (s : State) : (sampleSound s).mode = s.mode := rfl
@[simp] theorem sampleSound_userPaused (s : State) : (sampleSound s).userPaused = s.userPaused := rfl
@[simp] theorem sampleSound_speed (s : State) : (sampleSound s).speed = s.speed := rfl
@[simp] theorem sampleSound_fault (s : State) : (sampleSound s).fault = s.fault := rfl
@[simp] theorem sampleSound_mem (s : State) : (sampleSound s).mem = s.mem := rfl
@[simp] theorem sampleSound_soundOn (s : State) : (sampleSound s).soundOn = (s.st != 0x00#8) := rfl
@[simp] theorem sampleSound_fb (s : State) : (sampleSound s).fb = s.fb := rfl
@[simp] theorem sampleSound_keys (s : State) : (sampleSound s).keys = s.keys := rfl
@[simp] theorem sampleSound_draws (s : State) : (sampleSound s).draws = s.draws := rfl
@[simp] theorem sampleSound_config (s : State) : (sampleSound s).config = s.config := rfl

/-! ### writeByte -/

@[simp] theorem writeByte_v (s : State) (a : Addr) (b : Byte) : (writeByte s a b).v = s.v := rfl
@[simp] theorem writeByte_i (s : State) (a : Addr) (b : Byte) : (writeByte s a b).i = s.i := rfl
@[simp] theorem writeByte_pc (s : State) (a : Addr) (b : Byte) : (writeByte s a b).pc = s.pc := rfl
@[simp] theorem writeByte_stack (s : State) (a : Addr) (b : Byte) : (writeByte s a b).stack = s.stack := rfl
@[simp] theorem writeByte_sp (s : State) (a : Addr) (b : Byte) : (writeByte s a b).sp = s.sp := rfl
@[simp] theorem writeByte_dt (s : State) (a : Addr) (b : Byte) : (writeByte s a b).dt = s.dt := rfl
@[simp] theorem writeByte_st (s : State) (a : Addr) (b : Byte) : (writeByte s a b).st = s.st := rfl
@[simp] theorem writeByte_mode (s : State) (a : Addr) (b : Byte) : (writeByte s a b).mode = s.mode := rfl
@[simp] theorem writeByte_userPaused (s : State) (a : Addr) (b : Byte) : (writeByte s a b).userPaused = s.userPaused := rfl
@[simp] theorem writeByte_speed (s : State) (a : Addr) (b : Byte) : (writeByte s a b).speed = s.speed := rfl
@[simp] theorem writeByte_fault (s : State) (a : Addr) (b : Byte) : (writeByte s a b).fault = s.fault := rfl
@[simp] theorem writeByte_mem (s : State) (a : Addr) (b : Byte) : (writeByte s a b).mem = memWrite s.config.font s.mem a.toNat b := rfl
@[simp] theorem writeByte_soundOn (s : State) (a : Addr) (b : Byte) : (writeByte s a b).soundOn = s.soundOn := rfl
@[simp] theorem writeByte_fb (s : State) (a : Addr) (b : Byte) : (writeByte s a b).fb = s.fb := rfl
@[simp] theorem writeByte_keys (s : State) (a : Addr) (b : Byte) : (writeByte s a b).keys = s.keys := rfl
@[simp] theorem writeByte_draws (s : State) (a : Addr) (b : Byte) : (writeByte s a b).draws = s.draws := rfl
@[simp] theorem writeByte_config (s : State) (a : Addr) (b : Byte) : (writeByte s a b).config = s.config := rfl

/-! ### openGate -/

@[simp] theorem openGate_v (s : State) : (openGate s).v = s.v := rfl
@[simp] theorem openGate_i (s : State) : (openGate s).i = s.i := rfl
@[simp] theorem openGate_pc (s : State) : (openGate s).pc = s.pc := rfl
@[simp] theorem openGate_stack (s : State) : (openGate s).stack = s.stack := rfl
@[simp] theorem openGate_sp (s : State) : (openGate s).sp = s.sp := rfl
@[simp] theorem openGate_dt (s : State) : (openGate s).dt = s.dt := rfl
@[simp] theorem openGate_st (s : State) : (openGate s).st = s.st := rfl
@[simp] theorem openGate_mode (s : State) : (openGate s).mode = .running := rfl
@[simp] theorem openGate_userPaused (s : State) : (openGate s).userPaused = s.userPaused := rfl
@[simp] theorem openGate_speed (s : State) : (openGate s).speed = s.speed := rfl
@[simp] theorem openGate_fault (s : State) : (openGate s).fault = .none := rfl
@[simp] theorem openGate_mem (s : State) : (openGate s).mem = s.mem := rfl
@[simp] theorem openGate_soundOn (s : State) : (openGate s).soundOn = s.soundOn := rfl
@[simp] theorem openGate_fb (s : State) : (openGate s).fb = s.fb := rfl
@[simp] theorem openGate_keys (s : State) : (openGate s).keys = s.keys := rfl
@[simp] theorem openGate_draws (s : State) : (openGate s).draws = s.draws := rfl
@[simp] theorem openGate_config (s : State) : (openGate s).config = s.config := rfl

end Sys2Proof.Machine
end

