-- ==== Sys2Proof/Laws/Memory.lean ====
section
/-! SUPPORT. What reads and writes of memory do: a read after a write, and the canonical form kept by every operation. -/

namespace Sys2Proof.Machine

/-! ### Lookups after an update -/

theorem memLookup_memErase (m : Memory) (a b : Nat) :
    memLookup (memErase m a) b = if b = a then none else memLookup m b := by
  induction m with
  | nil => simp [memErase, memLookup]
  | cons c m ih =>
    obtain ⟨k, w⟩ := c
    by_cases hk : a = k
    · subst hk
      by_cases hb : b = a <;> simp_all [memErase, memLookup]
    · by_cases hb : b = k
      · subst hb
        simp [memErase, memLookup, hk, Ne.symm hk]
      · simp [memErase, memLookup, hk, hb, ih]

theorem memLookup_memInsert (m : Memory) (a b : Nat) (v : Byte) :
    memLookup (memInsert m a v) b = if b = a then some v else memLookup m b := by
  induction m with
  | nil => simp [memInsert, memLookup]
  | cons c m ih =>
    obtain ⟨k, w⟩ := c
    rcases Nat.lt_trichotomy a k with h | h | h
    · simp [memInsert, memLookup, h]
    · subst h
      by_cases hb : b = a <;> simp [memInsert, memLookup, hb]
    · have h1 : ¬ a < k := by omega
      have h2 : a ≠ k := by omega
      by_cases hb : b = k
      · subst hb
        simp [memInsert, memLookup, h1, h2, Ne.symm h2]
      · simp [memInsert, memLookup, h1, h2, hb, ih]

/-- A write changes exactly the cell it names (R55). -/
theorem readByte_writeByte (s : State) (a b : Addr) (v : Byte) :
    readByte (writeByte s a v) b = if b = a then v else readByte s b := by
  have inj : b.toNat = a.toNat ↔ b = a := ⟨BitVec.eq_of_toNat_eq, fun h => h ▸ rfl⟩
  by_cases hv : v = resetByte s.config.font a.toNat
  · by_cases hb : b = a
    · subst hb
      simp [readByte, memWrite, ← hv, memLookup_memErase]
    · simp [readByte, memWrite, ← hv, memLookup_memErase, inj, hb]
  · by_cases hb : b = a
    · subst hb
      simp [readByte, memWrite, hv, memLookup_memInsert]
    · simp [readByte, memWrite, hv, memLookup_memInsert, inj, hb]

/-! ### Reads do not see the other updates -/

@[simp] theorem readByte_writeReg (s : State) (x : Reg) (b : Byte) (a : Addr) : readByte (writeReg s x b) a = readByte s a := rfl
@[simp] theorem readByte_setI (s : State) (i a : Addr) : readByte (setI s i) a = readByte s a := rfl
@[simp] theorem readByte_setPc (s : State) (p a : Addr) : readByte (setPc s p) a = readByte s a := rfl
@[simp] theorem readByte_advancePc (s : State) (a : Addr) : readByte (advancePc s) a = readByte s a := rfl
@[simp] theorem readByte_pushReturn (s : State) (h : s.sp.val < 16) (a : Addr) : readByte (pushReturn s h) a = readByte s a := rfl
@[simp] theorem readByte_popReturn (s : State) (a : Addr) : readByte (popReturn s) a = readByte s a := rfl
@[simp] theorem readByte_setDt (s : State) (b : Byte) (a : Addr) : readByte (setDt s b) a = readByte s a := rfl
@[simp] theorem readByte_setSt (s : State) (b : Byte) (a : Addr) : readByte (setSt s b) a = readByte s a := rfl
@[simp] theorem readByte_decrementTimers (s : State) (a : Addr) : readByte (decrementTimers s) a = readByte s a := rfl
@[simp] theorem readByte_setMode (s : State) (m : Mode) (a : Addr) : readByte (setMode s m) a = readByte s a := rfl
@[simp] theorem readByte_setFb (s : State) (fb : Framebuffer) (a : Addr) : readByte (setFb s fb) a = readByte s a := rfl
@[simp] theorem readByte_setFault (s : State) (e : FaultLatch) (a : Addr) : readByte (setFault s e) a = readByte s a := rfl
@[simp] theorem readByte_setKeyLevel (s : State) (k : Key) (d : Bool) (a : Addr) : readByte (setKeyLevel s k d) a = readByte s a := rfl
@[simp] theorem readByte_countDraw (s : State) (a : Addr) : readByte (countDraw s) a = readByte s a := rfl
@[simp] theorem readByte_sampleSound (s : State) (a : Addr) : readByte (sampleSound s) a = readByte s a := rfl
@[simp] theorem readByte_openGate (s : State) (a : Addr) : readByte (openGate s) a = readByte s a := rfl

/-! ### The canonical form -/

theorem memWfFrom_mono {font : Font} {m : Memory} {lo hi : Nat} (h : memWfFrom font hi m = true) (hle : lo ≤ hi) :
    memWfFrom font lo m = true := by
  cases m with
  | nil => rfl
  | cons c m =>
    obtain ⟨k, w⟩ := c
    simp only [memWfFrom, Bool.and_eq_true, decide_eq_true_eq] at h ⊢
    exact ⟨⟨⟨by omega, h.1.1.2⟩, h.1.2⟩, h.2⟩

theorem memErase_wf {font : Font} {m : Memory} {lo : Nat} (a : Nat) (h : memWfFrom font lo m = true) :
    memWfFrom font lo (memErase m a) = true := by
  induction m generalizing lo with
  | nil => rfl
  | cons c m ih =>
    obtain ⟨k, w⟩ := c
    simp only [memWfFrom, Bool.and_eq_true, decide_eq_true_eq] at h
    by_cases hk : a = k
    · rw [memErase, if_pos hk]
      exact ih (memWfFrom_mono h.2 (by omega))
    · rw [memErase, if_neg hk]
      simp only [memWfFrom, Bool.and_eq_true, decide_eq_true_eq]
      exact ⟨h.1, ih h.2⟩

theorem memInsert_wf {font : Font} {m : Memory} {lo a : Nat} {v : Byte} (h : memWfFrom font lo m = true)
    (hlo : lo ≤ a) (ha : a < 4096) (hv : v ≠ resetByte font a) : memWfFrom font lo (memInsert m a v) = true := by
  induction m generalizing lo with
  | nil => simp [memInsert, memWfFrom, hlo, ha, hv]
  | cons c m ih =>
    obtain ⟨k, w⟩ := c
    have hcons := h
    simp only [memWfFrom, Bool.and_eq_true, decide_eq_true_eq, bne_iff_ne, ne_eq] at h
    rcases Nat.lt_trichotomy a k with hk | hk | hk
    · rw [memInsert, if_pos hk]
      simp only [memWfFrom, Bool.and_eq_true, decide_eq_true_eq, bne_iff_ne, ne_eq]
      exact ⟨⟨⟨hlo, ha⟩, hv⟩, ⟨⟨by omega, h.1.1.2⟩, h.1.2⟩, h.2⟩
    · subst hk
      rw [memInsert, if_neg (by omega), if_pos rfl]
      simp only [memWfFrom, Bool.and_eq_true, decide_eq_true_eq, bne_iff_ne, ne_eq]
      exact ⟨⟨⟨hlo, ha⟩, hv⟩, h.2⟩
    · rw [memInsert, if_neg (by omega), if_neg (by omega)]
      simp only [memWfFrom, Bool.and_eq_true, decide_eq_true_eq, bne_iff_ne, ne_eq]
      exact ⟨h.1, ih h.2 (by omega)⟩

theorem memWrite_wf {font : Font} {m : Memory} (a : Addr) (v : Byte) (h : Memory.wf font m = true) :
    Memory.wf font (memWrite font m a.toNat v) = true := by
  unfold memWrite
  split
  · exact memErase_wf a.toNat h
  · exact memInsert_wf h (by omega) a.isLt ‹_›

/-- Every byte write keeps memory canonical. -/
theorem writeByte_wf {s : State} (a : Addr) (v : Byte) (h : Memory.wf s.config.font s.mem = true) :
    Memory.wf (writeByte s a v).config.font (writeByte s a v).mem = true := memWrite_wf a v h

/-! ### Consecutive writes -/

/-- Consecutive writes change memory and nothing else. -/
theorem writeBytes_eq (s : State) (a : Addr) (vs : List Byte) : ∃ m, writeBytes s a vs = { s with mem := m } := by
  induction vs generalizing s a with
  | nil => exact ⟨s.mem, rfl⟩
  | cons v vs ih =>
    obtain ⟨m, hm⟩ := ih (writeByte s a v) (a + 1#12)
    exact ⟨m, by rw [writeBytes, hm]; rfl⟩

/-- Consecutive writes keep memory canonical. -/
theorem writeBytes_wf {s : State} (a : Addr) (vs : List Byte) (h : Memory.wf s.config.font s.mem = true) :
    Memory.wf (writeBytes s a vs).config.font (writeBytes s a vs).mem = true := by
  induction vs generalizing s a with
  | nil => exact h
  | cons v vs ih => exact ih (a + 1#12) (writeByte_wf a v h)

/-- What a byte reads as after consecutive writes of at most 4096 bytes from `a`: the byte whose offset it lies at, else as
before. -/
theorem readByte_writeBytes (s : State) (a b : Addr) (vs : List Byte) (hlen : vs.length ≤ 4096) :
    readByte (writeBytes s a vs) b = (vs[(b - a).toNat]?).getD (readByte s b) := by
  induction vs generalizing s a with
  | nil => simp [writeBytes]
  | cons v vs ih =>
    have hlen' : vs.length < 4096 := by simpa using hlen
    rw [writeBytes, ih _ _ (by omega), readByte_writeByte]
    by_cases hb : b = a
    · subst hb
      have h : vs[4095]? = none := List.getElem?_eq_none (by omega)
      simp [h]
    · have h1 : (b - a).toNat = (b - (a + 1#12)).toNat + 1 := by
        have hne : b.toNat ≠ a.toNat := fun h => hb (BitVec.eq_of_toNat_eq h)
        have := b.isLt
        have := a.isLt
        simp only [BitVec.toNat_sub, BitVec.toNat_add, BitVec.toNat_ofNat]
        omega
      simp [hb, h1]

end Sys2Proof.Machine
end

