-- ==== Sys2Proof/Laws/Frames.lean ====
section
/-! SUPPORT. The calculus of frames: reflexive, transitive, weakened, and the frame of every named update. -/

namespace Sys2Proof.Machine

theorem samePart_refl (s : State) (p : Part) : samePart s s p := by
  cases p <;> simp [samePart]

theorem samePart_trans {s t u : State} {p : Part} (h1 : samePart s t p) (h2 : samePart t u p) : samePart s u p := by
  cases p
  case mem => exact fun a => (h2 a).trans (h1 a)
  all_goals exact Eq.trans h2 h1

theorem SameBut.refl (ps : List Part) (s : State) : SameBut ps s s := fun p _ => samePart_refl s p

theorem SameBut.trans {ps : List Part} {s t u : State} (h1 : SameBut ps s t) (h2 : SameBut ps t u) : SameBut ps s u :=
  fun p hp => samePart_trans (h1 p hp) (h2 p hp)

theorem SameBut.mono {ps qs : List Part} {s t : State} (h : SameBut ps s t) (hsub : ∀ p ∈ ps, p ∈ qs) : SameBut qs s t :=
  fun p hp => h p fun hq => hp (hsub p hq)

theorem SameRegsBut.refl (xs : List Reg) (s : State) : SameRegsBut xs s s := fun _ _ => rfl

theorem writeReg_sameBut (s : State) (x : Reg) (b : Byte) : SameBut [.v] s (writeReg s x b) := by
  intro p hp; cases p <;> simp_all [samePart]

theorem setI_sameBut (s : State) (a : Addr) : SameBut [.i] s (setI s a) := by
  intro p hp; cases p <;> simp_all [samePart]

theorem setPc_sameBut (s : State) (a : Addr) : SameBut [.pc] s (setPc s a) := by
  intro p hp; cases p <;> simp_all [samePart]

theorem advancePc_sameBut (s : State) : SameBut [.pc] s (advancePc s) := setPc_sameBut s _

theorem skipIf_sameBut (c : Bool) (s : State) : SameBut [.pc] s (skipIf c s) := by
  cases c
  · exact SameBut.refl _ s
  · exact advancePc_sameBut s

theorem pushReturn_sameBut (s : State) (h : s.sp.val < 16) : SameBut [.stack, .sp] s (pushReturn s h) := by
  intro p hp; cases p <;> simp_all [samePart]

theorem popReturn_sameBut (s : State) : SameBut [.sp] s (popReturn s) := by
  intro p hp; cases p <;> simp_all [samePart]

theorem setDt_sameBut (s : State) (b : Byte) : SameBut [.dt] s (setDt s b) := by
  intro p hp; cases p <;> simp_all [samePart]

theorem setSt_sameBut (s : State) (b : Byte) : SameBut [.st] s (setSt s b) := by
  intro p hp; cases p <;> simp_all [samePart]

theorem setMode_sameBut (s : State) (m : Mode) : SameBut [.mode] s (setMode s m) := by
  intro p hp; cases p <;> simp_all [samePart]

theorem setFb_sameBut (s : State) (fb : Framebuffer) : SameBut [.fb] s (setFb s fb) := by
  intro p hp; cases p <;> simp_all [samePart]

theorem setFault_sameBut (s : State) (e : FaultLatch) : SameBut [.fault] s (setFault s e) := by
  intro p hp; cases p <;> simp_all [samePart]

theorem setKeyLevel_sameBut (s : State) (k : Key) (d : Bool) : SameBut [.keys] s (setKeyLevel s k d) := by
  intro p hp; cases p <;> simp_all [samePart]

theorem countDraw_sameBut (s : State) : SameBut [.draws] s (countDraw s) := by
  intro p hp; cases p <;> simp_all [samePart]

theorem sampleSound_sameBut (s : State) : SameBut [.soundOn] s (sampleSound s) := by
  intro p hp; cases p <;> simp_all [samePart]

theorem decrementTimers_sameBut (s : State) : SameBut [.dt, .st] s (decrementTimers s) := by
  intro p hp; cases p <;> simp_all [samePart]

theorem writeBytes_sameBut (s : State) (a : Addr) (vs : List Byte) : SameBut [.mem] s (writeBytes s a vs) := by
  obtain ⟨m, hm⟩ := writeBytes_eq s a vs
  intro p hp; cases p <;> simp_all [samePart]

end Sys2Proof.Machine
end

