-- ==== Sys2Proof/Laws/Ops.lean ====
section
/-! SUPPORT. For each shared operation, once, everything it can do; later proofs cite these and never unfold the operation. -/

namespace Sys2Proof.Machine

/-! ### Outcomes -/

@[simp] theorem bindNext_next (s : State) (f : State → Result) : bindNext (.next s) f = f s := rfl

theorem bindNext_assoc (r : Result) (f g : State → Result) :
    bindNext (bindNext r f) g = bindNext r fun s => bindNext (f s) g := by
  cases r <;> rfl

@[simp] theorem bindNext_pure (r : Result) : bindNext r .next = r := by
  cases r <;> rfl

/-- A composition ends in a next state exactly when both halves do. -/
theorem bindNext_eq_next {r : Result} {f : State → Result} {t : State} :
    bindNext r f = .next t ↔ ∃ s, r = .next s ∧ f s = .next t := by
  cases r <;> simp [bindNext]

/-! ### Registers -/

theorem readReg_writeReg (s : State) (x y : Reg) (b : Byte) :
    readReg (writeReg s x b) y = if y = x then b else readReg s y := by
  by_cases h : y = x
  · subst h; simp [readReg]
  · have hv : x.val ≠ y.val := fun e => h (Fin.ext e.symm)
    simp [readReg, h, Vector.getElem_set_ne _ _ hv]

@[simp] theorem readReg_setI (s : State) (a : Addr) (x : Reg) : readReg (setI s a) x = readReg s x := rfl
@[simp] theorem readReg_setPc (s : State) (a : Addr) (x : Reg) : readReg (setPc s a) x = readReg s x := rfl
@[simp] theorem readReg_advancePc (s : State) (x : Reg) : readReg (advancePc s) x = readReg s x := rfl
@[simp] theorem readReg_setDt (s : State) (b : Byte) (x : Reg) : readReg (setDt s b) x = readReg s x := rfl
@[simp] theorem readReg_setSt (s : State) (b : Byte) (x : Reg) : readReg (setSt s b) x = readReg s x := rfl
@[simp] theorem readReg_setMode (s : State) (m : Mode) (x : Reg) : readReg (setMode s m) x = readReg s x := rfl
@[simp] theorem readReg_setFb (s : State) (fb : Framebuffer) (x : Reg) : readReg (setFb s fb) x = readReg s x := rfl
@[simp] theorem readReg_setFault (s : State) (e : FaultLatch) (x : Reg) : readReg (setFault s e) x = readReg s x := rfl
@[simp] theorem readReg_setKeyLevel (s : State) (k : Key) (d : Bool) (x : Reg) : readReg (setKeyLevel s k d) x = readReg s x := rfl
@[simp] theorem readReg_countDraw (s : State) (x : Reg) : readReg (countDraw s) x = readReg s x := rfl
@[simp] theorem readReg_sampleSound (s : State) (x : Reg) : readReg (sampleSound s) x = readReg s x := rfl
@[simp] theorem readReg_writeByte (s : State) (a : Addr) (b : Byte) (x : Reg) : readReg (writeByte s a b) x = readReg s x := rfl

theorem readReg_writeBytes (s : State) (a : Addr) (vs : List Byte) (x : Reg) :
    readReg (writeBytes s a vs) x = readReg s x := by
  obtain ⟨m, hm⟩ := writeBytes_eq s a vs
  rw [hm]; rfl

/-! ### Data addresses -/

/-- Every address is `I` plus its distance from `I`. -/
theorem dataAddress_distance (s : State) (a : Addr) : dataAddress s (a - s.i).toNat = a := by
  rw [dataAddress, BitVec.ofNat_toNat, BitVec.setWidth_eq, BitVec.add_comm, BitVec.sub_add_cancel]

/-- The distance of `I + k` from `I`. -/
theorem distance_dataAddress (s : State) {k : Nat} (h : k < 4096) : (dataAddress s k - s.i).toNat = k := by
  rw [dataAddress, BitVec.add_comm, BitVec.add_sub_cancel, BitVec.toNat_ofNat, Nat.mod_eq_of_lt h]

/-! ### The gate -/

theorem gateOpen_iff (s : State) : gateOpen s = true ↔ s.fault = .none ∧ s.mode = .running := by
  cases hf : s.fault <;> cases hm : s.mode <;> simp [gateOpen, halted, keyWaitArmed, hf, hm]

theorem running_iff (s : State) : running s = true ↔ s.fault = .none ∧ s.mode = .running ∧ s.userPaused = false := by
  simp [running, gateOpen_iff, and_assoc]

/-! ### Exceptions -/

/-- Entering an exception: under the `fault` policy the latch is set and nothing else; otherwise the machine stops. -/
theorem takeException_cases (e : FaultLatch) (s : State) :
    (s.config.stackFault = .fault ∧ takeException e s = .next (setFault s e)) ∨
    (s.config.stackFault ≠ .fault ∧ takeException e s = .fault (.stackPolicyOpen s.config.stackFault)) := by
  cases h : s.config.stackFault <;> simp [takeException, h]

/-! ### Flag-writing instructions -/

/-- The result-and-flag write: refused only for x = 15 under `refuse`; otherwise one of the two orders of writing. -/
theorem writeResultAndFlag_cases (s : State) (x : Reg) (result flag : Byte) :
    (s.config.vfDest = .refuse ∧ x = flagReg ∧ writeResultAndFlag s x result flag = .refused .vfDestination) ∨
    (s.config.vfDest = .flagLast ∧
      writeResultAndFlag s x result flag = .next (writeReg (writeReg s x result) flagReg flag)) ∨
    (s.config.vfDest ≠ .flagLast ∧ (x = flagReg → s.config.vfDest ≠ .refuse) ∧
      writeResultAndFlag s x result flag = .next (writeReg (writeReg s flagReg flag) x result)) := by
  cases h : s.config.vfDest with
  | resultLast => exact .inr (.inr ⟨by simp, by simp, by simp [writeResultAndFlag, h]⟩)
  | flagLast => exact .inr (.inl ⟨rfl, by simp [writeResultAndFlag, h]⟩)
  | refuse =>
    by_cases hx : x = flagReg
    · exact .inl ⟨rfl, hx, by simp [writeResultAndFlag, h, hx]⟩
    · exact .inr (.inr ⟨by simp, fun e => absurd e hx, by simp [writeResultAndFlag, h, hx]⟩)

/-! ### Key answers -/

theorem keyAnswer_le {s : State} {b : Byte} (h : b.toNat ≤ 15) : keyAnswer s b = some (keyPressed s (keyCode b)) := by
  simp [keyAnswer, h]

/-- Above 15 the answer is the policy's. -/
theorem keyAnswer_gt {s : State} {b : Byte} (h : 15 < b.toNat) :
    (s.config.keyRange = .notPressed ∧ keyAnswer s b = some false) ∨
    (s.config.keyRange = .maskLowNibble ∧ keyAnswer s b = some (keyPressed s (keyCode b))) ∨
    (s.config.keyRange = .refuse ∧ keyAnswer s b = none) := by
  have h' : ¬ b.toNat ≤ 15 := by omega
  cases hk : s.config.keyRange <;> simp [keyAnswer, h', hk]

theorem keyCode_eq (b : Byte) : keyCode b = Fin.ofNat 16 b.toNat := by
  apply Fin.ext
  simp [keyCode]

/-! ### Timers -/

theorem countDown_toNat (b : Byte) : (countDown b).toNat = b.toNat - 1 := by
  unfold countDown
  split
  · subst_vars; rfl
  · have : b.toNat ≠ 0 := fun h => ‹¬ b = 0#8› (BitVec.eq_of_toNat_eq h)
    have := b.isLt
    simp only [BitVec.toNat_sub, BitVec.toNat_ofNat]
    omega

/-! ### The Display -/

theorem pixelOn_displayToggle (fb : Framebuffer) (p q : Pixel) :
    pixelOn (displayToggle fb p).2 q = if q = p then !pixelOn fb p else pixelOn fb q := by
  obtain ⟨px, py⟩ := p
  obtain ⟨qx, qy⟩ := q
  by_cases hy : qy = py
  · subst hy
    by_cases hx : qx = px
    · subst hx
      simp [pixelOn, displayToggle]
    · have : qx.val ≠ px.val := fun e => hx (Fin.ext e)
      simp [pixelOn, displayToggle, hx, this]
  · have : py.val ≠ qy.val := fun e => hy (Fin.ext e.symm)
    simp [pixelOn, displayToggle, hy, Vector.getElem_set_ne _ _ this]

/-- Toggling pairwise distinct pixels: each is inverted, every other stays, and `was_on` was answered iff one was on. -/
theorem toggleAll_spec (fb : Framebuffer) (ps : List Pixel) (hnd : ps.Nodup) :
    (∀ q, pixelOn (toggleAll fb ps).2 q = if q ∈ ps then !pixelOn fb q else pixelOn fb q) ∧
    ((toggleAll fb ps).1 = true ↔ ∃ p ∈ ps, pixelOn fb p = true) := by
  induction ps generalizing fb with
  | nil => simp [toggleAll]
  | cons p ps ih =>
    obtain ⟨hp, hps⟩ := List.nodup_cons.mp hnd
    obtain ⟨ih1, ih2⟩ := ih (displayToggle fb p).2 hps
    refine ⟨fun q => ?_, ?_⟩
    · simp only [toggleAll, ih1, pixelOn_displayToggle, List.mem_cons]
      by_cases hq : q = p
      · subst hq; simp [hp]
      · simp [hq]
    · have same : ∀ q ∈ ps, pixelOn (displayToggle fb p).2 q = pixelOn fb q := fun q hq => by
        rw [pixelOn_displayToggle, if_neg (fun e : q = p => hp (e ▸ hq))]
      have hfirst : (displayToggle fb p).1 = pixelOn fb p := rfl
      simp only [toggleAll, Bool.or_eq_true, hfirst, ih2, List.mem_cons, exists_eq_or_imp]
      refine or_congr Iff.rfl (exists_congr fun q => ?_)
      exact ⟨fun ⟨hq, ho⟩ => ⟨hq, same q hq ▸ ho⟩, fun ⟨hq, ho⟩ => ⟨hq, (same q hq).symm ▸ ho⟩⟩

/-! ### Bulk loads -/

theorem mem_regsThrough (x k : Reg) : k ∈ regsThrough x ↔ k ≤ x := by
  revert x k; decide

/-- Loading registers from a function of their index: the listed ones get its value, nothing else changes. -/
theorem foldl_writeReg (ks : List Reg) (f : Reg → Byte) (s : State) :
    (∀ z, readReg (ks.foldl (fun t k => writeReg t k (f k)) s) z = if z ∈ ks then f z else readReg s z) ∧
    SameBut [.v] s (ks.foldl (fun t k => writeReg t k (f k)) s) := by
  induction ks generalizing s with
  | nil => exact ⟨by simp, SameBut.refl _ s⟩
  | cons k ks ih =>
    obtain ⟨ih1, ih2⟩ := ih (writeReg s k (f k))
    refine ⟨fun z => ?_, (writeReg_sameBut s k (f k)).trans ih2⟩
    rw [List.foldl_cons, ih1, readReg_writeReg]
    by_cases hz : z = k
    · subst hz; simp
    · simp [hz]

/-! ### What a cycle and a step can do -/

/-- A cycle executes the fetched instruction, or skips over an unknown encoding. -/
theorem cycle_cases (s : State) :
    (∃ i, decode s.config.strictLowNibble (fetchWord s) = .instr i ∧ cycle s = exec i (advancePc s)) ∨
    (∃ u, decode s.config.strictLowNibble (fetchWord s) = .unknown u ∧ cycle s = .next (advancePc s)) := by
  cases h : decode s.config.strictLowNibble (fetchWord s) with
  | instr i => exact .inl ⟨i, rfl, by simp [cycle, h]⟩
  | unknown u => exact .inr ⟨u, rfl, by simp [cycle, h]⟩

/-- A step that answers a next state ran one cycle behind an open gate, or none behind a closed one. -/
theorem step_cases {s t : State} (h : step s = .next t) :
    (gateOpen s = true ∧ ∃ u, cycle s = .next u ∧ t = sampleSound u) ∨ (gateOpen s = false ∧ t = sampleSound s) := by
  unfold step hostStep gatedCycle at h
  cases hg : gateOpen s
  · simp only [hg, Bool.false_eq_true, if_false, bindNext_next, Host.Outcome.next.injEq] at h
    exact .inr ⟨rfl, h.symm⟩
  · simp only [hg, if_true] at h
    obtain ⟨u, hu, ht⟩ := bindNext_eq_next.mp h
    exact .inl ⟨rfl, u, hu, (Host.Outcome.next.inj ht).symm⟩

/-- A cycle slot runs a cycle while RUNNING and is idle otherwise. -/
theorem slot_cases (s : State) :
    (running s = true ∧ slot s = cycle s) ∨ (running s = false ∧ slot s = .next s) := by
  cases h : running s <;> simp [slot, h]

/-- A tick that answers a next state ran its slots, then its timers, then sampled. -/
theorem tick_cases {s u : State} (h : tick s = .next u) :
    ∃ t, runSlots s.speed s = .next t ∧ u = sampleSound (tickTimers t) := by
  obtain ⟨t, ht, hu⟩ := bindNext_eq_next.mp h
  exact ⟨t, ht, (Host.Outcome.next.inj hu).symm⟩

/-- A tick with operations between its cycles ran its slots with them, the last boundary, then its timers, then sampled. -/
theorem tickAmid_cases {amid : List (List BoundaryOp)} {s w : State} (h : tickAmid amid s = .next w) :
    ∃ t u, runSlotsAmid s.speed amid s = .next t ∧ runBoundary (amid[s.speed]?.getD []) t = .next u ∧
      w = sampleSound (tickTimers u) := by
  obtain ⟨t, ht, h⟩ := bindNext_eq_next.mp h
  obtain ⟨u, hu, hw⟩ := bindNext_eq_next.mp h
  exact ⟨t, u, ht, hu, (Host.Outcome.next.inj hw).symm⟩

/-! ### What runs of operations keep -/

/-- What each of the listed operations keeps, the boundary keeps. -/
theorem runBoundary_keeps {P : State → Prop} {ops : List BoundaryOp} {s t : State} (h : runBoundary ops s = .next t)
    (hop : ∀ op ∈ ops, ∀ a b, P a → applyBoundary op a = .next b → P b) (hs : P s) : P t := by
  induction ops generalizing s with
  | nil => cases h; exact hs
  | cons op ops ih =>
    obtain ⟨u, hu, h⟩ := bindNext_eq_next.mp h
    exact ih h (fun o ho => hop o (List.mem_cons_of_mem _ ho)) (hop op (List.mem_cons_self ..) _ _ hs hu)

/-- What a slot and each of the operations between the slots keep, the slots of a tick keep. -/
theorem runSlotsAmid_keeps {P : State → Prop} {k : Nat} {amid : List (List BoundaryOp)} {s t : State}
    (h : runSlotsAmid k amid s = .next t) (hslot : ∀ a b, P a → slot a = .next b → P b)
    (hop : ∀ op ∈ amid.flatten, ∀ a b, P a → applyBoundary op a = .next b → P b) (hs : P s) : P t := by
  induction k generalizing amid s with
  | zero => cases h; exact hs
  | succ k ih =>
    obtain ⟨u, hu, h⟩ := bindNext_eq_next.mp h
    obtain ⟨v, hv, h⟩ := bindNext_eq_next.mp h
    have hhead : ∀ o ∈ amid.headD [], o ∈ amid.flatten := by cases amid <;> simp +contextual
    have htail : ∀ o ∈ amid.tail.flatten, o ∈ amid.flatten := by cases amid <;> simp +contextual
    exact ih h (fun o ho => hop o (htail o ho)) (hslot _ _ (runBoundary_keeps hu (fun o ho => hop o (hhead o ho)) hs) hv)

/-- What a slot, the decrement with its sample, and each operation inside it keep, a tick keeps. -/
theorem tickAmid_keeps {P : State → Prop} {amid : List (List BoundaryOp)} {s w : State} (h : tickAmid amid s = .next w)
    (hslot : ∀ a b, P a → slot a = .next b → P b)
    (hop : ∀ op ∈ amid.flatten, ∀ a b, P a → applyBoundary op a = .next b → P b)
    (hend : ∀ a, P a → P (sampleSound (tickTimers a))) (hs : P s) : P w := by
  obtain ⟨t, u, ht, hu, rfl⟩ := tickAmid_cases h
  refine hend u (runBoundary_keeps hu (fun o ho => hop o ?_) (runSlotsAmid_keeps ht hslot hop hs))
  obtain ⟨ops, hops, ho⟩ : ∃ ops ∈ amid, o ∈ ops := by
    by_cases hk : s.speed < amid.length
    · exact ⟨amid[s.speed], List.getElem_mem hk, by simpa [hk] using ho⟩
    · simp [List.getElem?_eq_none (Nat.le_of_not_lt hk)] at ho
  exact List.mem_flatten.mpr ⟨ops, hops, ho⟩

end Sys2Proof.Machine
end

