-- ==== Sys2Proof/Laws/PerInstr.lean ====
section
/-! SUPPORT. Statements about every instruction as syntax. Family `RowMatch`: the encoder's word of an instruction lies in its row
of the opcode map, `word & mask = match` (R75, R76). -/

namespace Sys2Proof.Laws.RowMatch

/-- The word of `i` has the fixed bits of its row. -/
def Statement (i : Instr) : Prop := encode i &&& rowMask i = rowMatch i

end Sys2Proof.Laws.RowMatch

namespace Sys2Proof.Laws

theorem and_nibble_ones (v : Nibble) : v &&& 0xF#4 = v := BitVec.and_allOnes (x := v)

theorem and_byte_ones (v : Byte) : v &&& 0xFF#8 = v := BitVec.and_allOnes (x := v)

theorem encodeNNN_fixed (op : Nibble) (nnn : Addr) : encodeNNN op nnn &&& 0xF000#16 = op ++ 0x000#12 := by
  have h : (0xF000#16 : Word) = 0xF#4 ++ 0x000#12 := rfl
  rw [h, encodeNNN, BitVec.and_append]
  simp [and_nibble_ones]

theorem encodeXNN_op (op : Nibble) (x : Reg) (nn : Byte) : encodeXNN op x nn &&& 0xF000#16 = op ++ 0x0#4 ++ 0x00#8 := by
  have h : (0xF000#16 : Word) = 0xF#4 ++ 0x0#4 ++ 0x00#8 := rfl
  rw [h, encodeXNN, BitVec.and_append, BitVec.and_append]
  simp [and_nibble_ones]

theorem encodeXNN_fixed (op : Nibble) (x : Reg) (nn : Byte) : encodeXNN op x nn &&& 0xF0FF#16 = op ++ 0x0#4 ++ nn := by
  have h : (0xF0FF#16 : Word) = 0xF#4 ++ 0x0#4 ++ 0xFF#8 := rfl
  rw [h, encodeXNN, BitVec.and_append, BitVec.and_append]
  simp [and_nibble_ones, and_byte_ones]

theorem encodeXYN_fixed (op n : Nibble) (x y : Reg) : encodeXYN op x y n &&& 0xF00F#16 = op ++ 0x0#4 ++ 0x0#4 ++ n := by
  have h : (0xF00F#16 : Word) = 0xF#4 ++ 0x0#4 ++ 0x0#4 ++ 0xF#4 := rfl
  rw [h, encodeXYN, BitVec.and_append, BitVec.and_append, BitVec.and_append]
  simp [and_nibble_ones]

theorem encodeXYN_op (op n : Nibble) (x y : Reg) : encodeXYN op x y n &&& 0xF000#16 = op ++ 0x0#4 ++ 0x0#4 ++ 0x0#4 := by
  have h : (0xF000#16 : Word) = 0xF#4 ++ 0x0#4 ++ 0x0#4 ++ 0x0#4 := rfl
  rw [h, encodeXYN, BitVec.and_append, BitVec.and_append, BitVec.and_append]
  simp [and_nibble_ones]

end Sys2Proof.Laws

namespace Sys2Proof.Laws.RowMatch

theorem sys (nnn : Addr) : Statement (.sys nnn) := encodeNNN_fixed _ nnn
theorem cls : Statement .cls := rfl
theorem ret : Statement .ret := rfl
theorem jp (nnn : Addr) : Statement (.jp nnn) := encodeNNN_fixed _ nnn
theorem call (nnn : Addr) : Statement (.call nnn) := encodeNNN_fixed _ nnn
theorem seImm (x : Reg) (nn : Byte) : Statement (.seImm x nn) := encodeXNN_op _ x nn
theorem sneImm (x : Reg) (nn : Byte) : Statement (.sneImm x nn) := encodeXNN_op _ x nn
theorem seReg (x y : Reg) : Statement (.seReg x y) := encodeXYN_fixed _ _ x y
theorem ldImm (x : Reg) (nn : Byte) : Statement (.ldImm x nn) := encodeXNN_op _ x nn
theorem addImm (x : Reg) (nn : Byte) : Statement (.addImm x nn) := encodeXNN_op _ x nn
theorem ldReg (x y : Reg) : Statement (.ldReg x y) := encodeXYN_fixed _ _ x y
theorem orReg (x y : Reg) : Statement (.orReg x y) := encodeXYN_fixed _ _ x y
theorem andReg (x y : Reg) : Statement (.andReg x y) := encodeXYN_fixed _ _ x y
theorem xorReg (x y : Reg) : Statement (.xorReg x y) := encodeXYN_fixed _ _ x y
theorem addReg (x y : Reg) : Statement (.addReg x y) := encodeXYN_fixed _ _ x y
theorem sub (x y : Reg) : Statement (.sub x y) := encodeXYN_fixed _ _ x y
theorem shr (x y : Reg) : Statement (.shr x y) := encodeXYN_fixed _ _ x y
theorem subn (x y : Reg) : Statement (.subn x y) := encodeXYN_fixed _ _ x y
theorem shl (x y : Reg) : Statement (.shl x y) := encodeXYN_fixed _ _ x y
theorem sneReg (x y : Reg) : Statement (.sneReg x y) := encodeXYN_fixed _ _ x y
theorem ldI (nnn : Addr) : Statement (.ldI nnn) := encodeNNN_fixed _ nnn
theorem jpV0 (nnn : Addr) : Statement (.jpV0 nnn) := encodeNNN_fixed _ nnn
theorem rnd (x : Reg) (nn : Byte) : Statement (.rnd x nn) := encodeXNN_op _ x nn
theorem drw (x y : Reg) (n : Nibble) : Statement (.drw x y n) := encodeXYN_op _ n x y
theorem skp (x : Reg) : Statement (.skp x) := encodeXNN_fixed _ x _
theorem sknp (x : Reg) : Statement (.sknp x) := encodeXNN_fixed _ x _
theorem ldVxDt (x : Reg) : Statement (.ldVxDt x) := encodeXNN_fixed _ x _
theorem ldVxK (x : Reg) : Statement (.ldVxK x) := encodeXNN_fixed _ x _
theorem ldDtVx (x : Reg) : Statement (.ldDtVx x) := encodeXNN_fixed _ x _
theorem ldStVx (x : Reg) : Statement (.ldStVx x) := encodeXNN_fixed _ x _
theorem addI (x : Reg) : Statement (.addI x) := encodeXNN_fixed _ x _
theorem ldF (x : Reg) : Statement (.ldF x) := encodeXNN_fixed _ x _
theorem ldB (x : Reg) : Statement (.ldB x) := encodeXNN_fixed _ x _
theorem ldMemVx (x : Reg) : Statement (.ldMemVx x) := encodeXNN_fixed _ x _
theorem ldVxMem (x : Reg) : Statement (.ldVxMem x) := encodeXNN_fixed _ x _

end Sys2Proof.Laws.RowMatch
end

