-- ==== Sys2Proof/Tests/Slice0.lean ====
section
/-! SUPPORT. Tests and witnesses. Expected results come from spec/95_test_vectors.md (E, T, P), from the examples of the rules, or
from the encodings of 30_encoding R76 written out by hand. Each `witness_` theorem shows that the hypotheses of the statement of
that name can be met together, clause by clause. -/

namespace Sys2Proof.Tests

open Sys2Proof.Machine

/-! ### Helpers -/

/-- The result is a next state that passes the check. -/
def nextIs (r : Result) (check : State → Bool) : Bool :=
  match r with
  | .next t => check t
  | .fault _ => false
  | .refused _ => false

/-- `State.reset` with the listed registers. -/
def withRegs (l : List (Reg × Byte)) : State := l.foldl (fun s p => writeReg s p.1 p.2) State.reset

/-- Memory bytes placed from an address on. -/
def withBytes (s : State) (a : Addr) (l : List Byte) : State := writeBytes s a l

/-- Run `n` steps. -/
def steps : Nat → State → Result
  | 0, s => .next s
  | n + 1, s => bindNext (step s) (steps n)

/-- A state at 0x200 with SP as given and return address 0x202 in every slot. -/
def stackState (n : Fin 17) : State := { State.reset with sp := n, stack := Vector.replicate 16 0x202#12 }

/-- A state halted by a stack overflow. -/
def haltedState : State := { stackState 16 with fault := .stackOverflow, dt := 3 }

/-- A state waiting for a key for V3. -/
def waitingState : State := { State.reset with mode := .awaitingKey 3, pc := 0x206#12 }

/-- The recommended parameters with another value of one of them. -/
def refuseVf : Config := { defaultConfig with vfDest := .refuse }
def flagLastVf : Config := { defaultConfig with vfDest := .flagLast }
def shiftVy : Config := { defaultConfig with shiftSource := .vy }
def refuseKey : Config := { defaultConfig with keyRange := .refuse }
def maskKey : Config := { defaultConfig with keyRange := .maskLowNibble }
def clampStack : Config := { defaultConfig with stackFault := .clamp }
def laxNibble : Config := { defaultConfig with strictLowNibble := false }

/-- The recommended parameters with another digit-0 glyph: not legal (R57). -/
def otherDigitZero : Config := { defaultConfig with font := defaultFont.set 0 0x60#8 }

/-! ### Well-formedness: the one check, R78 -/

theorem test_sys_0E0_illformed : wellFormed (.sys 0x0E0#12) = false := by decide
theorem test_sys_0EE_illformed : wellFormed (.sys 0x0EE#12) = false := by decide
theorem test_sys_0E1_wellformed : wellFormed (.sys 0x0E1#12) = true := by decide

/-! ### Decoding: words written out from R76, every constructor -/

theorem test_decode_control :
    decodeTableWord 16 0b0000000100100011 = some (.sys 0x123) ∧ decodeTableWord 16 0b0000000011100000 = some .cls ∧
    decodeTableWord 16 0b0000000011101110 = some .ret ∧ decodeTableWord 16 0b0001101010111100 = some (.jp 0xABC) ∧
    decodeTableWord 16 0b0010010000000000 = some (.call 0x400) ∧ decodeTableWord 16 0b1011001100000000 = some (.jpV0 0x300) := by
  decide

theorem test_decode_skips :
    decodeTableWord 16 0b0011101001010101 = some (.seImm 0xA 0x55) ∧
    decodeTableWord 16 0b0100101001010101 = some (.sneImm 0xA 0x55) ∧
    decodeTableWord 16 0b0101000100100000 = some (.seReg 1 2) ∧ decodeTableWord 16 0b1001000100100000 = some (.sneReg 1 2) := by
  decide

theorem test_decode_alu :
    decodeTableWord 16 0b0110001110101011 = some (.ldImm 3 0xAB) ∧ decodeTableWord 16 0b0111001111111111 = some (.addImm 3 0xFF) ∧
    decodeTableWord 16 0b1000000100100000 = some (.ldReg 1 2) ∧ decodeTableWord 16 0b1000000100100001 = some (.orReg 1 2) ∧
    decodeTableWord 16 0b1000000100100010 = some (.andReg 1 2) ∧ decodeTableWord 16 0b1000000100100011 = some (.xorReg 1 2) ∧
    decodeTableWord 16 0b1000101010110100 = some (.addReg 0xA 0xB) ∧ decodeTableWord 16 0b1000000100100101 = some (.sub 1 2) ∧
    decodeTableWord 16 0b1000001000000110 = some (.shr 2 0) ∧ decodeTableWord 16 0b1000000100100111 = some (.subn 1 2) ∧
    decodeTableWord 16 0b1000001000001110 = some (.shl 2 0) := by
  decide

theorem test_decode_index :
    decodeTableWord 16 0b1010000100100011 = some (.ldI 0x123) ∧ decodeTableWord 16 0b1100001100001111 = some (.rnd 3 0x0F) ∧
    decodeTableWord 16 0b1111000100011110 = some (.addI 1) ∧ decodeTableWord 16 0b1111000100101001 = some (.ldF 1) ∧
    decodeTableWord 16 0b1111000100110011 = some (.ldB 1) ∧ decodeTableWord 16 0b1111001101010101 = some (.ldMemVx 3) ∧
    decodeTableWord 16 0b1111001101100101 = some (.ldVxMem 3) := by
  decide

theorem test_decode_ports :
    decodeTableWord 16 0b1101000100100101 = some (.drw 1 2 5) ∧ decodeTableWord 16 0b1110000110011110 = some (.skp 1) ∧
    decodeTableWord 16 0b1110000110100001 = some (.sknp 1) ∧ decodeTableWord 16 0b1111001100000111 = some (.ldVxDt 3) ∧
    decodeTableWord 16 0b1111001100001010 = some (.ldVxK 3) ∧ decodeTableWord 16 0b1111001100010101 = some (.ldDtVx 3) ∧
    decodeTableWord 16 0b1111001100011000 = some (.ldStVx 3) := by
  decide

/-- R80, T1, T2, T5: unknown encodings, by space; 5121 is SE V1,V2 under lax decode (R80). -/
theorem test_decode_unknown :
    decode true 0x5121#16 = .unknown .group5 ∧ decode true 0x8128#16 = .unknown .group8 ∧ decode true 0x812F#16 = .unknown .group8 ∧
    decode true 0x9121#16 = .unknown .group9 ∧ decode true 0xE19F#16 = .unknown .groupE ∧ decode true 0xF1FF#16 = .unknown .groupF ∧
    decode false 0x5121#16 = .instr (.seReg 1 2) := by
  decide

theorem test_encode_addReg : encode (.addReg 0xA 0xB) = 0x8AB4#16 := by decide

/-! ### Control flow (T1) -/

theorem test_sys : exec (.sys 0x123) State.reset = .next State.reset := rfl
theorem test_jp : nextIs (exec (.jp 0x201) State.reset) (fun t => t.pc == 0x201#12) = true := by decide

/-- T1: CALL 400 at 200 with SP = 15: the 16th nested call succeeds. -/
theorem test_call_sixteenth : nextIs (step ((stackState 15).withFetchWord 16 0x2400))
    (fun t => t.pc == 0x400#12 && t.sp == 16 && t.stack[15] == 0x202#12 && t.fault == .none) = true := by decide

/-- T1: CALL 400 at 200 with SP = 16. -/
theorem test_call_overflow : nextIs (step ((stackState 16).withFetchWord 16 0x2400))
    (fun t => t.pc == 0x202#12 && t.sp == 16 && t.fault == .stackOverflow && t.stack == (stackState 16).stack) = true := by decide

/-- T1: RET with SP = 1, stack[0] = 202: the slot keeps its value. -/
theorem test_ret : nextIs (step ({ stackState 1 with pc := 0x300#12 }.withFetchWord 16 0x00EE))
    (fun t => t.pc == 0x202#12 && t.sp == 0 && t.stack[0] == 0x202#12) = true := by decide

theorem test_ret_underflow : nextIs (step (State.reset.withFetchWord 16 0x00EE))
    (fun t => t.pc == 0x202#12 && t.sp == 0 && t.fault == .stackUnderflow) = true := by decide

/-- T1: SE VA,55 at FFC with VA = 55 continues at 000; not taken at 200. -/
theorem test_seImm_taken_wraps : nextIs (step ({ withRegs [(0xA, 0x55)] with pc := 0xFFC#12 }.withFetchWord 16 0x3A55))
    (fun t => t.pc == 0x000#12) = true := by decide
theorem test_seImm_not_taken : nextIs (step ((withRegs [(0xA, 0x54)]).withFetchWord 16 0x3A55)) (fun t => t.pc == 0x202#12) = true := by
  decide
theorem test_sneImm_taken : nextIs (step (State.reset.withFetchWord 16 0x4A55)) (fun t => t.pc == 0x204#12) = true := by decide
theorem test_seReg_taken : nextIs (step ((withRegs [(1, 7), (2, 7)]).withFetchWord 16 0x5120)) (fun t => t.pc == 0x204#12) = true := by
  decide
theorem test_sneReg_taken : nextIs (step ((withRegs [(1, 7), (2, 8)]).withFetchWord 16 0x9120)) (fun t => t.pc == 0x204#12) = true := by
  decide
theorem test_jpV0_wraps : nextIs (exec (.jpV0 0xFF0) (withRegs [(0, 0xFF)])) (fun t => t.pc == 0x0EF#12) = true := by decide

/-! ### Loads and ALU (T2) -/

theorem test_ldImm_vf : nextIs (exec (.ldImm 0xF 0x01) (withRegs [(0xF, 0x77)])) (fun t => readReg t 0xF == 0x01#8) = true := by decide
theorem test_addImm_no_flag : nextIs (exec (.addImm 3 0x01) (withRegs [(3, 0xFF), (0xF, 0x77)]))
    (fun t => readReg t 3 == 0x00#8 && readReg t 0xF == 0x77#8) = true := by decide
theorem test_ldReg : nextIs (exec (.ldReg 1 2) (withRegs [(1, 0x11), (2, 0x22)]))
    (fun t => readReg t 1 == 0x22#8 && readReg t 2 == 0x22#8) = true := by decide
theorem test_or : nextIs (exec (.orReg 1 2) (withRegs [(1, 0xF0), (2, 0x0F), (0xF, 0x77)]))
    (fun t => readReg t 1 == 0xFF#8 && readReg t 0xF == 0x77#8) = true := by decide
theorem test_and : nextIs (exec (.andReg 1 2) (withRegs [(1, 0xF0), (2, 0x3C)])) (fun t => readReg t 1 == 0x30#8) = true := by decide
theorem test_xor : nextIs (exec (.xorReg 1 2) (withRegs [(1, 0xF0), (2, 0x3C)])) (fun t => readReg t 1 == 0xCC#8) = true := by decide
theorem test_add_carry : nextIs (exec (.addReg 1 2) (withRegs [(1, 0xC8), (2, 0x64)]))
    (fun t => readReg t 1 == 0x2C#8 && readReg t 0xF == 1#8) = true := by decide

/-- T2: 8F14 with VF = FF, V1 = 01: the result (00) wins over the flag (1); under `flag_last` the flag stays. -/
theorem test_add_vf_destination :
    nextIs (exec (.addReg 0xF 1) (withRegs [(0xF, 0xFF), (1, 0x01)])) (fun t => readReg t 0xF == 0x00#8) = true ∧
    nextIs (exec (.addReg 0xF 1) { withRegs [(0xF, 0xFF), (1, 0x01)] with config := flagLastVf })
      (fun t => readReg t 0xF == 0x01#8) = true := by decide
theorem test_sub_equal : nextIs (exec (.sub 1 2) (withRegs [(1, 0x05), (2, 0x05)]))
    (fun t => readReg t 1 == 0x00#8 && readReg t 0xF == 1#8) = true := by decide
theorem test_sub_borrow : nextIs (exec (.sub 1 2) (withRegs [(1, 0x10), (2, 0x20)]))
    (fun t => readReg t 1 == 0xF0#8 && readReg t 0xF == 0#8) = true := by decide
theorem test_subn_borrow : nextIs (exec (.subn 1 2) (withRegs [(1, 0xFF), (2, 0x01)]))
    (fun t => readReg t 1 == 0x02#8 && readReg t 0xF == 0#8) = true := by decide
theorem test_subn_vf_destination : nextIs (exec (.subn 0xF 1) (withRegs [(0xF, 0x05), (1, 0x03)]))
    (fun t => readReg t 0xF == 0xFE#8) = true := by decide
theorem test_shr : nextIs (exec (.shr 1 0) (withRegs [(1, 0x7F)])) (fun t => readReg t 1 == 0x3F#8 && readReg t 0xF == 1#8) = true := by
  decide
theorem test_shr_source_vy : nextIs (exec (.shr 1 2) { withRegs [(1, 0xFF), (2, 0x04)] with config := shiftVy })
    (fun t => readReg t 1 == 0x02#8 && readReg t 2 == 0x04#8 && readReg t 0xF == 0#8) = true := by decide
theorem test_shl : nextIs (exec (.shl 1 0) (withRegs [(1, 0xC8)])) (fun t => readReg t 1 == 0x90#8 && readReg t 0xF == 1#8) = true := by
  decide
theorem test_shl_vf : nextIs (exec (.shl 0xF 0) (withRegs [(0xF, 0x81)])) (fun t => readReg t 0xF == 0x02#8) = true := by decide

/-! ### Index, random, memory (T3) -/

theorem test_ldI : nextIs (exec (.ldI 0xFFF) State.reset) (fun t => t.i == 0xFFF#12) = true := by decide
theorem test_addI_wraps_without_flag : nextIs (exec (.addI 1) { withRegs [(1, 0xFF), (0xF, 0x77)] with i := 0xFFE#12 })
    (fun t => t.i == 0x0FD#12 && readReg t 0xF == 0x77#8) = true := by decide
theorem test_ldF_digit : nextIs (exec (.ldF 1) (withRegs [(1, 0x0A)])) (fun t => t.i == 0x082#12) = true := by decide
theorem test_ldF_whole_byte : nextIs (exec (.ldF 1) (withRegs [(1, 0xFF)])) (fun t => t.i == 0x54B#12) = true := by decide

/-- T3: C300 gives 00 for every byte drawn, with one draw. -/
theorem test_rnd_zero_mask : nextIs (exec (.rnd 3 0x00) (withRegs [(3, 0x55)])) (fun t => t.draws == 1) = true := by decide

theorem test_ldB_wraps : nextIs (exec (.ldB 1) { withRegs [(1, 0xFF)] with i := 0xFFE#12 })
    (fun t => readByte t 0xFFE#12 == 2#8 && readByte t 0xFFF#12 == 5#8 && readByte t 0x000#12 == 5#8 && t.i == 0xFFE#12) = true := by
  decide
theorem test_ldB_254 : nextIs (exec (.ldB 0) { withRegs [(0, 0xFE)] with i := 0x300#12 })
    (fun t => readByte t 0x300#12 == 2#8 && readByte t 0x301#12 == 5#8 && readByte t 0x302#12 == 4#8) = true := by decide
theorem test_ldMemVx_wraps :
    nextIs (exec (.ldMemVx 3) { withRegs [(0, 0x11), (1, 0x22), (2, 0x33), (3, 0x44), (4, 0x55)] with i := 0xFFE#12 })
      (fun t => readByte t 0xFFE#12 == 0x11#8 && readByte t 0xFFF#12 == 0x22#8 && readByte t 0x000#12 == 0x33#8 &&
        readByte t 0x001#12 == 0x44#8 && readByte t 0x002#12 == 0x00#8 && t.i == 0xFFE#12) = true := by decide
theorem test_ldMemVx_one : nextIs (exec (.ldMemVx 0) { withRegs [(0, 0x9A), (1, 0x55)] with i := 0x400#12 })
    (fun t => readByte t 0x400#12 == 0x9A#8 && readByte t 0x401#12 == 0x00#8) = true := by decide

/-- T3: FF65 at I = 050 loads the first 16 font bytes. -/
theorem test_ldVxMem_font : nextIs (exec (.ldVxMem 0xF) { State.reset with i := 0x050#12 })
    (fun t => t.v.toList == [0xF0, 0x90, 0x90, 0x90, 0xF0, 0x20, 0x60, 0x20, 0x20, 0x70, 0xF0, 0x10, 0xF0, 0x80, 0xF0, 0xF0]) = true := by
  decide
theorem test_ldVxMem_stops_at_x :
    nextIs (exec (.ldVxMem 1) { withBytes (withRegs [(2, 0x77)]) 0xFFF#12 [0x12, 0x34, 0x56] with i := 0xFFF#12 })
      (fun t => readReg t 0 == 0x12#8 && readReg t 1 == 0x34#8 && readReg t 2 == 0x77#8) = true := by decide

/-! ### Display (T4) -/

theorem test_cls : nextIs (exec .cls { withRegs [(0xF, 0x77)] with fb := Vector.replicate 32 0xFFFF#64 })
    (fun t => t.fb.toList.all (· == 0#64) && readReg t 0xF == 0x77#8) = true := by decide

/-- E5: glyph 0 at (0,0): rows 0 to 4 are ####, #..#, #..#, #..#, ####, in columns 0 to 3. -/
theorem test_drw_glyph : nextIs (exec (.drw 1 2 5) { State.reset with i := 0x050#12 })
    (fun t => t.fb[0] == 0b1111#64 && t.fb[1] == 0b1001#64 && t.fb[4] == 0b1111#64 && t.fb[5] == 0#64 && readReg t 0xF == 0#8) = true := by
  decide

/-- T4: FF at (62, 0) wraps per pixel; DF11 takes its coordinate from the old VF. -/
theorem test_drw_wraps_and_latches :
    nextIs (exec (.drw 1 2 1) { withBytes (withRegs [(1, 0x3E)]) 0x400#12 [0xFF] with i := 0x400#12 })
      (fun t => t.fb[0] == 0xC00000000000003F#64) = true ∧
    nextIs (exec (.drw 0xF 1 1) { withBytes (withRegs [(0xF, 0x05), (1, 0x02)]) 0x400#12 [0x80] with i := 0x400#12 })
      (fun t => t.fb[2] == 0b100000#64 && readReg t 0xF == 0#8) = true := by decide

/-! ### Keys and timers (T5) -/

/-- E19E and E1A1 with V1 = 15 hexadecimal (21), all keys down: above 15 counts as not pressed. -/
theorem test_skp_above_fifteen :
    nextIs (exec (.skp 1) { withRegs [(1, 0x15)] with keys := Vector.replicate 16 true }) (fun t => t.pc == 0x200#12) = true := by decide
theorem test_skp_down : nextIs (exec (.skp 1) (setKeyLevel (withRegs [(1, 0x05)]) 5 true)) (fun t => t.pc == 0x202#12) = true := by decide
theorem test_sknp_above_fifteen :
    nextIs (exec (.sknp 1) { withRegs [(1, 0x15)] with keys := Vector.replicate 16 true }) (fun t => t.pc == 0x202#12) = true := by decide
theorem test_sknp_down : nextIs (exec (.sknp 1) (setKeyLevel (withRegs [(1, 0x05)]) 5 true)) (fun t => t.pc == 0x200#12) = true := by
  decide
theorem test_ldVxK : nextIs (step ({ State.reset with pc := 0x204#12 }.withFetchWord 16 0xF30A))
    (fun t => t.pc == 0x206#12 && t.mode == .awaitingKey 3 && readReg t 3 == 0#8) = true := by decide
theorem test_ldVxK_closes_gate : nextIs (steps 2 (State.reset.withFetchWord 16 0xF30A)) (fun t => t.pc == 0x202#12) = true := by decide
theorem test_ldVxDt : nextIs (exec (.ldVxDt 3) { State.reset with dt := 0x2A }) (fun t => readReg t 3 == 0x2A#8 && t.dt == 0x2A#8) = true := by
  decide
theorem test_ldDtVx : nextIs (exec (.ldDtVx 3) (withRegs [(3, 0xFF)])) (fun t => t.dt == 0xFF#8) = true := by decide
theorem test_ldStVx : nextIs (step ((withRegs [(3, 0x02)]).withFetchWord 16 0xF318)) (fun t => t.st == 2#8 && t.soundOn) = true := by decide

/-! ### Fetch, scheduler, host (T5, T6) -/

/-- T6: fetch at FFF takes its second byte from 000: 612A, then PC = 001. -/
theorem test_fetch_wraps : nextIs (step { withBytes State.reset 0xFFF#12 [0x61, 0x2A] with pc := 0xFFF#12 })
    (fun t => readReg t 1 == 0x2A#8 && t.pc == 0x001#12) = true := by decide

/-- T6: `A204 6012 F055` stores onto its own bytes: the executing word is not disturbed. -/
theorem test_self_modification : nextIs (steps 3 (withBytes State.reset 0x200#12 [0xA2, 0x04, 0x60, 0x12, 0xF0, 0x55]))
    (fun t => readByte t 0x204#12 == 0x12#8 && t.pc == 0x206#12) = true := by decide

/-- T1, P6: 5121 with V1 = V2 only advances PC, and skips under lax decode. -/
theorem test_unknown_step :
    nextIs (step (State.reset.withFetchWord 16 0x5121)) (fun t => t.pc == 0x202#12 && t.fault == .none) = true ∧
    nextIs (step ({ State.reset with config := laxNibble }.withFetchWord 16 0x5121)) (fun t => t.pc == 0x204#12) = true := by decide

/-- T5: speed = 10, DT = 3, ST = 1, memory of no-ops. -/
theorem test_tick_ten : nextIs (tick { State.reset with speed := 10, dt := 3, st := 1 })
    (fun t => t.pc == 0x214#12 && t.dt == 2#8 && t.st == 0#8 && !t.soundOn) = true := by decide

/-- T5: speed = 3, words F30A 6101 6202: one cycle, two idle slots, no decrement. -/
theorem test_tick_key_wait :
    nextIs (tick { withBytes State.reset 0x200#12 [0xF3, 0x0A, 0x61, 0x01, 0x62, 0x02] with speed := 3, dt := 9 })
      (fun t => t.pc == 0x202#12 && readReg t 1 == 0#8 && t.dt == 9#8 && t.mode == .awaitingKey 3) = true := by decide

/-- The same program with speed 3: key 5 goes down between the first and the second cycle of the tick (R171): the wait is over, and by
the per-slot condition of R195 (the model's choice, log 33) the two slots run and the timers are decremented. -/
theorem test_tick_key_between_cycles :
    nextIs (tickAmid [[], [.keyDown 5]]
        { withBytes State.reset 0x200#12 [0xF3, 0x0A, 0x61, 0x01, 0x62, 0x02] with speed := 3, dt := 9 })
      (fun t => t.pc == 0x206#12 && readReg t 3 == 5#8 && readReg t 1 == 1#8 && t.dt == 8#8 && t.mode == .running) = true := by
  decide

/-- E19E twice with V1 = 5: key 5 goes down between the two cycles of one tick, so only the second skips (R171, R172). -/
theorem test_tick_level_between_cycles :
    nextIs (tickAmid [[], [.keyDown 5]]
        { withBytes (withRegs [(1, 0x05)]) 0x200#12 [0xE1, 0x9E, 0xE1, 0x9E] with speed := 2 })
      (fun t => t.pc == 0x206#12) = true := by decide
theorem test_tick_paused : nextIs (tick { State.reset with userPaused := true, dt := 3, st := 2 })
    (fun t => t.pc == 0x200#12 && t.dt == 3#8 && t.st == 2#8 && t.soundOn) = true := by decide
theorem test_step_ignores_pause : nextIs (step { State.reset with userPaused := true, dt := 3 })
    (fun t => t.pc == 0x202#12 && t.dt == 3#8) = true := by decide

/-- T5: F118 with V1 = 1 at speed 1: ST is set and decremented to 0 within the tick; no edge. -/
theorem test_tick_no_sound_edge : nextIs (tick ((withRegs [(1, 0x01)]).withFetchWord 16 0xF118))
    (fun t => t.st == 0#8 && audioEvent State.reset t == none) = true := by decide
theorem test_keyPress : readReg (keyPress 0xC waitingState) 3 = 0x0C#8 ∧ (keyPress 0xC waitingState).mode = .running ∧
    (keyPress 0xC waitingState).pc = 0x206#12 := by decide
theorem test_keyDown_held_key_does_not_complete :
    (keyDown 4 (setKeyLevel waitingState 4 true)).mode = .awaitingKey 3 ∧ (keyDown 4 waitingState).mode = .running := by decide

/-- R220: what a halted machine still tells of the faulting CALL. -/
theorem test_faulting_instruction : nextIs (step ((stackState 16).withFetchWord 16 0x2400))
    (fun t => faultingAddress t == 0x200#12 && faultingWord t == 0x2400#16 && faultCode t.fault == 1) = true := by decide

/-- T6: load 4 bytes, then 2: the tail of the old program stays. -/
theorem test_load_over : nextIs (runHost [.boundary (.loadProgram [0xAA, 0xBB, 0xCC, 0xDD]),
      .boundary (.loadProgram [0x11, 0x22])] State.reset)
    (fun t => readByte t 0x200#12 == 0x11#8 && readByte t 0x202#12 == 0xCC#8 && readByte t 0x203#12 == 0xDD#8 && t.pc == 0x200#12) = true := by
  decide
theorem test_font : readByte State.reset 0x055#12 = 0x20#8 ∧ readByte State.reset 0x09B#12 = 0xF0#8 ∧
    readByte State.reset 0x09F#12 = 0x80#8 := by decide

/-- R6, R57: DOC0's digit 0 is fixed, and `SPEED_INIT` is at least 1. -/
theorem test_config_legal : defaultConfig.legal = true ∧ otherDigitZero.legal = false ∧
    { defaultConfig with speedInit := 0 }.legal = false := by decide

/-! ### Notation (R82) -/

/-- P5 and P6 of 95_test_vectors: `loop: CALL loop` is 22 00; `JP 206` behind three data words is 12 06. -/
theorem test_assemble_text :
    assembleText 0x200 "loop: CALL loop ; no way back".toList = some [0x22, 0x00] ∧
    assembleText 0x200 "DB 0x51, 0x21, 0xE1, 0, 241, 255\nend:\n  JP end".toList =
      some [0x51, 0x21, 0xE1, 0x00, 0xF1, 0xFF, 0x12, 0x06] := by decide

/-- P4 of 95_test_vectors; `SHR Vx` is 8x06, and the words of CLS and RET are no SYS (R78). -/
theorem test_assemble_rows :
    assemble 0x200 [.instr .ld [.reg 0, .num 5], .instr .ld [.delay, .reg 0], .instr .ld [.reg 3, .key],
      .instr .ld [.reg 4, .delay], .label ['p'], .instr .jp [.label ['p']]] =
      some [0x60, 0x05, 0xF0, 0x15, 0xF3, 0x0A, 0xF4, 0x07, 0x12, 0x08] ∧
    assemble 0x200 [.instr .shr [.reg 1], .instr .shl [.reg 1, .reg 2]] = some [0x81, 0x06, 0x81, 0x2E] ∧
    assemble 0x200 [.instr .sys [.num 0x0E0]] = none := by decide

/-! ### Witnesses -/

theorem witness_DecodeOfEncode : wellFormed (.sys 0x0E1#12) = true ∧ wellFormed (.addReg 0xF 0xF) = true := by decide
theorem witness_EncodeOfDecode : decode true 0x8AB4#16 = .instr (.addReg 0xA 0xB) := by decide

theorem witness_StepRunsDecodedInstruction :
    (State.reset.withFetchWord 16 0x8124).fault = .none ∧ (State.reset.withFetchWord 16 0x8124).mode = .running ∧
    decode (State.reset.withFetchWord 16 0x8124).config.strictLowNibble (fetchWord (State.reset.withFetchWord 16 0x8124)) =
      .instr (.addReg 1 2) := by decide
theorem witness_UnknownEncodingIsNoOp :
    (State.reset.withFetchWord 16 0x5121).fault = .none ∧ (State.reset.withFetchWord 16 0x5121).mode = .running ∧
    decode (State.reset.withFetchWord 16 0x5121).config.strictLowNibble (fetchWord (State.reset.withFetchWord 16 0x5121)) =
      .unknown .group5 := by decide
theorem witness_NothingRunsBehindClosedGate :
    haltedState.fault ≠ .none ∧ waitingState.mode ≠ .running ∧ (pause State.reset).userPaused = true := by decide
theorem witness_PlacedWordRunsNext : decode haltedState.config.strictLowNibble 0x8124#16 = .instr (.addReg 1 2) := by decide

theorem witness_CallPushesOrOverflows :
    (stackState 15).sp.val < 16 ∧ (stackState 0).sp.val < 16 ∧ (stackState 16).sp.val = 16 ∧
    (stackState 16).config.stackFault = .fault := by decide
theorem witness_RetPopsOrUnderflows :
    0 < (stackState 1).sp.val ∧ 0 < (stackState 16).sp.val ∧ (15 : Fin 16).val + 1 = (stackState 16).sp.val ∧
    (stackState 0).sp.val = 0 ∧ (stackState 0).config.stackFault = .fault := by decide
theorem witness_OpenStackPolicyStopsByName :
    clampStack.stackFault ≠ .fault ∧ { stackState 16 with config := clampStack }.sp.val = 16 ∧
    { stackState 0 with config := clampStack }.sp.val = 0 := by decide

/-- 2300 at 0x200 and 00EE at 0x300 (E4). -/
def callRet : State := withBytes (withBytes State.reset 0x200#12 [0x23, 0x00]) 0x300#12 [0x00, 0xEE]
theorem witness_CallThenRetReturns :
    callRet.fault = .none ∧ callRet.mode = .running ∧ callRet.sp.val < 16 ∧
    decode callRet.config.strictLowNibble (fetchWord callRet) = .instr (.call 0x300#12) ∧
    decode callRet.config.strictLowNibble (fetchWord (setPc callRet 0x300#12)) = .instr .ret ∧
    (15 : Fin 16).val ≠ callRet.sp.val := by decide

theorem witness_AddSetsSumAndCarry :
    ((1 : Reg) = flagReg → refuseVf.vfDest ≠ .refuse) ∧ (flagReg = flagReg → State.reset.config.vfDest ≠ .refuse) := by decide
theorem witness_SubSetsDifferenceAndNotBorrow :
    ((0 : Reg) = flagReg → refuseVf.vfDest ≠ .refuse) ∧ (flagReg = flagReg → flagLastVf.vfDest ≠ .refuse) := by decide
theorem witness_SubnSetsReverseDifferenceAndNotBorrow :
    ((14 : Reg) = flagReg → refuseVf.vfDest ≠ .refuse) ∧ (flagReg = flagReg → State.reset.config.vfDest ≠ .refuse) := by decide
theorem witness_ShrHalvesAndKeepsLowBit :
    ((2 : Reg) = flagReg → refuseVf.vfDest ≠ .refuse) ∧ (flagReg = flagReg → shiftVy.vfDest ≠ .refuse) := by decide
theorem witness_ShlDoublesAndKeepsHighBit :
    ((2 : Reg) = flagReg → refuseVf.vfDest ≠ .refuse) ∧ (flagReg = flagReg → shiftVy.vfDest ≠ .refuse) := by decide
theorem witness_VfDestinationFollowsPolicy :
    State.reset.config.vfDest = .resultLast ∧ { State.reset with config := flagLastVf }.config.vfDest = .flagLast ∧
    { State.reset with config := refuseVf }.config.vfDest = .refuse := by decide

theorem witness_BcdStoresThreeDigits :
    (∀ k, k < 3 → (0x303#12 : Addr) ≠ dataAddress { State.reset with i := 0x300#12 } k) ∧
    (∀ k, k < 3 → (0x2FF#12 : Addr) ≠ dataAddress { State.reset with i := 0x300#12 } k) := by decide
theorem witness_LogicIsBitwiseWithoutFlag : 0 < 8 ∧ 7 < 8 := by decide
theorem witness_BulkStoreThenLoadRestores : (0 : Reg) ≤ 0 ∧ (0xF : Reg) ≤ 0xF ∧ (3 : Reg) ≤ 7 := by decide
theorem witness_BulkStoreWritesRegisters :
    (0 : Reg) ≤ 0 ∧ (0xF : Reg) ≤ 0xF ∧
    (∀ k : Reg, k ≤ 0 → (0x401#12 : Addr) ≠ dataAddress { State.reset with i := 0x400#12 } k.val) ∧
    (∀ k : Reg, k ≤ 0xF → (0x008#12 : Addr) ≠ dataAddress { State.reset with i := 0xFF8#12 } k.val) := by decide
theorem witness_BulkLoadReadsRegisters : (1 : Reg) ≤ 1 ∧ (1 : Reg) < 2 ∧ (0xF : Reg) ≤ 0xF := by decide
theorem witness_StoreSeenByNextFetch :
    1 ≤ (1 : Reg).val ∧ { State.reset with i := 0x200#12 }.i = { State.reset with i := 0x200#12 }.pc ∧
    dataAddress { State.reset with i := 0x1FE#12 } 2 = State.reset.pc ∧
    dataAddress { State.reset with i := 0x1FE#12 } 3 = State.reset.pc + 1#12 ∧
    (∀ k, k < 3 → dataAddress { State.reset with i := 0x1FE#12 } k ≠ State.reset.pc + 1#12) ∧
    (∀ k, k < 3 → dataAddress { State.reset with i := 0x201#12 } k ≠ State.reset.pc) := by decide

/-- One lit pixel at (0, 0); the sprite byte at I covers it, and another draw leaves it off. -/
def drawState : State :=
  { withBytes State.reset 0x400#12 [0xC0] with i := 0x400#12, fb := (Vector.replicate 32 0#64).set 0 1#64 }
theorem witness_DrawInvertsCoveredPixels_collision :
    ∃ p, SpriteCovers drawState 1 2 1 p ∧ pixelOn drawState.fb p = true :=
  ⟨(0, 0), ⟨0, 0, by decide⟩, by decide⟩
theorem witness_DrawInvertsCoveredPixels_no_collision :
    ¬ ∃ p, SpriteCovers drawState 1 2 0 p ∧ pixelOn drawState.fb p = true := by
  rintro ⟨p, ⟨r, c, hr, -⟩, -⟩
  exact absurd hr (by decide +revert)
theorem witness_DrawTwiceRestoresPixels : (1 : Reg) ≠ flagReg ∧ (2 : Reg) ≠ flagReg := by decide

theorem witness_KeySkipsFollowKeyLevel :
    (refuseKey.keyRange = .refuse → (readReg (withRegs [(1, 0x0F)]) 1).toNat ≤ 15) ∧
    (State.reset.config.keyRange = .refuse → (readReg (withRegs [(1, 0x10)]) 1).toNat ≤ 15) := by decide
theorem witness_KeySkipsFollowKeyLevel_clauses :
    KeyCountsDown (setKeyLevel (withRegs [(1, 0x0F)]) 0xF true) 0x0F#8 ∧
    ¬ KeyCountsDown { State.reset with keys := Vector.replicate 16 true } 0x10#8 ∧
    KeyCountsDown { State.reset with keys := Vector.replicate 16 true, config := maskKey } 0x10#8 := by
  unfold KeyCountsDown
  decide
theorem witness_KeyCodeAboveFifteenRefusedByPolicy :
    { withRegs [(1, 0x10)] with config := refuseKey }.config.keyRange = .refuse ∧
    15 < (readReg { withRegs [(1, 0x10)] with config := refuseKey } 1).toNat := by decide

theorem witness_TickDecrementsOnceIfRunning :
    (∃ t, runSlots State.reset.speed State.reset = .next t ∧ running t = true) ∧
    (∃ t, runSlots waitingState.speed waitingState = .next t ∧ running t = false) :=
  ⟨⟨_, rfl, by decide⟩, ⟨_, rfl, by decide⟩⟩
theorem witness_SlotsIdleAfterKeyWaitOrFault :
    (∃ t, runSlots 1 (State.reset.withFetchWord 16 0xF30A) = .next t ∧ t.mode ≠ .running) ∧
    (∃ t, runSlots 1 (State.reset.withFetchWord 16 0x00EE) = .next t ∧ t.fault ≠ .none) :=
  ⟨⟨_, rfl, by decide⟩, ⟨_, rfl, by decide⟩⟩
theorem witness_OperationsActBetweenCyclesOfTick :
    running State.reset = true ∧ running (pause State.reset) = false ∧
    decode true (fetchWord (State.reset.withFetchWord 16 0x8124)) = .instr (.addReg 1 2) ∧
    decode true (fetchWord (State.reset.withFetchWord 16 0x5121)) = .unknown .group5 ∧
    (∀ t, runSlotsAmid 1 [] ({ State.reset with config := clampStack }.withFetchWord 16 0x00EE) ≠ .next t) ∧
    (∃ t u, runSlotsAmid waitingState.speed [[], [.keyPress 3]] waitingState = .next t ∧
      runBoundary (([[], [.keyPress 3]] : List (List BoundaryOp))[waitingState.speed]?.getD []) t = .next u ∧ running u = true) ∧
    (∃ t u, runSlotsAmid waitingState.speed [] waitingState = .next t ∧
      runBoundary (([] : List (List BoundaryOp))[waitingState.speed]?.getD []) t = .next u ∧ running u = false) :=
  ⟨by decide, by decide, by decide, by decide, (fun _ h => by cases h), ⟨_, _, rfl, rfl, by decide⟩, ⟨_, _, rfl, rfl, by decide⟩⟩
theorem witness_IdleLoopCountsTimersDown :
    running (State.reset.withFetchWord 16 0x1200) = true ∧
    decode (State.reset.withFetchWord 16 0x1200).config.strictLowNibble (fetchWord (State.reset.withFetchWord 16 0x1200)) =
      .instr (.jp (State.reset.withFetchWord 16 0x1200).pc) := by decide
theorem witness_KeyPressCompletesWait :
    waitingState.fault = .none ∧ waitingState.mode = .awaitingKey 3 ∧ haltedState.fault ≠ .none ∧ State.reset.mode = .running ∧
    keyPressed (setKeyLevel State.reset 0xF true) 0xF = true ∧ keyPressed State.reset 0 = false ∧ keyPressed (keyUp 0xF (setKeyLevel State.reset 0xF true)) 0xF = false := by decide
theorem witness_PauseRunAndSpeed : 1 ≤ 1 ∧ 0 < 1 := by decide
theorem witness_LoadProgramWritesExactlyItsBytes :
    ([] : List Byte).length = 0 ∧ 3584 < (List.replicate 3585 (0 : Byte)).length ∧
    (1 ≤ ([0x12] : List Byte).length ∧ ([0x12] : List Byte).length ≤ 3584) ∧
    (1 ≤ (List.replicate 3584 (0 : Byte)).length ∧ (List.replicate 3584 (0 : Byte)).length ≤ 3584) ∧
    (0x1FF#12 : Addr).toNat < 0x200 ∧ 0x200 + ([0x12] : List Byte).length ≤ (0x201#12 : Addr).toNat := by
  rw [List.length_replicate, List.length_replicate]
  decide
theorem witness_ResetRestoresCore :
    (0x04F#12 : Addr).toNat < 0x050 ∧ 0x0A0 ≤ (0x0A0#12 : Addr).toNat ∧ 79 < 80 ∧
    State.reset.config.legal = true := by decide
theorem witness_PowerOnIsSpeedInitThenReset :
    (0x04F#12 : Addr).toNat < 0x050 ∧ 0x0A0 ≤ (0x0A0#12 : Addr).toNat ∧ 0 < 80 ∧ 79 < 80 := by decide
theorem witness_ResetRestoresCore_fault_cleared :
    ∃ t, applyHost (.boundary .reset) haltedState = .next t ∧ haltedState.fault ≠ .none ∧ t.fault = .none := ⟨_, rfl, by decide, rfl⟩
theorem witness_ResetRestoresCore_wait_ended :
    ∃ t, applyHost (.boundary .reset) waitingState = .next t ∧ waitingState.mode = .awaitingKey 3 ∧ t.mode ≠ .awaitingKey 3 :=
  ⟨_, rfl, rfl, by decide⟩
theorem witness_SoundFollowsSoundTimer :
    (∃ t, step State.reset = .next t) ∧ (∃ t, tick haltedState = .next t) ∧
    (∃ t, tickAmid [[.reset]] haltedState = .next t) ∧ (∃ t, applyHost (.boundary .reset) haltedState = .next t) :=
  ⟨⟨_, rfl⟩, ⟨_, rfl⟩, ⟨_, rfl⟩, ⟨_, rfl⟩⟩

theorem witness_InstructionsWriteOnlyTheirParts : ∃ t, exec (.call 0x300#12) State.reset = .next t := ⟨_, rfl⟩
theorem witness_InstructionsWriteOnlyTheirRegisters : ∃ t, exec (.addReg 1 2) State.reset = .next t := ⟨_, rfl⟩
theorem witness_InstructionsStoreOnlyTheirBytes :
    (∃ t, exec (.ldB 1) State.reset = .next t) ∧ (0x003#12 : Addr) ∉ storedAddresses State.reset (.ldB 1) ∧
    (0x000#12 : Addr) ∉ storedAddresses State.reset (.ldImm 1 0) := ⟨⟨_, rfl⟩, by decide, by decide⟩
theorem witness_OnlyResetLeavesHalt : haltedState.fault ≠ .none ∧
    ∀ op ∈ [HostOp.tick [[], [.keyDown 3]], .boundary (.keyPress 3), .boundary .run], .reset ∉ op.boundaryOps := by decide
theorem witness_KeyWaitBlocksUntilKeyPress :
    waitingState.mode = .awaitingKey 3 ∧ ∀ op ∈ [HostOp.tick [[.pause], [.keyUp 3]], .boundary .step, .boundary .run],
      .reset ∉ op.boundaryOps ∧ ∀ k, .keyPress k ∉ op.boundaryOps ∧ .keyDown k ∉ op.boundaryOps := by decide
theorem witness_EveryRunCompletes : FullyDefined State.reset.config := by
  unfold FullyDefined
  decide

/-- The invariant can be met: at reset. -/
theorem witness_inv : Inv State.reset :=
  ⟨⟨by decide, by decide, by decide, by decide, by decide⟩, by unfold SoundSampled; decide⟩
theorem witness_InvariantAtReset : defaultConfig.legal = true := by decide
theorem witness_StepKeepsInvariant : ∃ s t, Inv s ∧ step s = .next t := ⟨State.reset, _, witness_inv, rfl⟩
theorem witness_HostOperationsKeepInvariant : ∃ s t, Inv s ∧ applyHost (.tick [[.run], [.pause]]) s = .next t := ⟨State.reset, _, witness_inv, rfl⟩

end Sys2Proof.Tests
end

/-! Which parts of the state, and which general registers, an instruction may write (00_scope R11). First the frame of each
shared operation an instruction ends in, then one case a row of the opcode table. -/

namespace Sys2Proof.Machine

/-! ### Frames of general registers -/

theorem SameRegsBut.trans {xs : List Reg} {s t u : State} (h1 : SameRegsBut xs s t) (h2 : SameRegsBut xs t u) :
    SameRegsBut xs s u :=
  fun z hz => (h2 z hz).trans (h1 z hz)

/-- Where the part `V` is not written, no general register is. -/
theorem SameRegsBut.of_sameBut {ps : List Part} {xs : List Reg} {s t : State} (h : SameBut ps s t) (hv : .v ∉ ps) :
    SameRegsBut xs s t := by
  have hsame : t.v = s.v := h .v hv
  intro z _
  simp only [readReg, hsame]

theorem writeReg_sameRegsBut {xs : List Reg} {x : Reg} (hx : x ∈ xs) (s : State) (b : Byte) :
    SameRegsBut xs s (writeReg s x b) := by
  intro z hz
  have hne : z ≠ x := fun e => hz (e ▸ hx)
  rw [readReg_writeReg, if_neg hne]

/-! ### Flag-writing instructions (R131) -/

/-- In either order of its two writes, a flag-writing instruction writes V[x], VF and nothing else. -/
theorem writeResultAndFlag_frame {s t : State} {x : Reg} {result flag : Byte}
    (h : writeResultAndFlag s x result flag = .next t) : SameBut [.v] s t ∧ SameRegsBut [x, flagReg] s t := by
  have twoWrites : ∀ (y z : Reg) (b c : Byte), y ∈ [x, flagReg] → z ∈ [x, flagReg] →
      SameBut [.v] s (writeReg (writeReg s y b) z c) ∧ SameRegsBut [x, flagReg] s (writeReg (writeReg s y b) z c) :=
    fun y z b c hy hz =>
      ⟨(writeReg_sameBut s y b).trans (writeReg_sameBut _ z c),
        (writeReg_sameRegsBut hy s b).trans (writeReg_sameRegsBut hz _ c)⟩
  obtain ⟨_, _, hr⟩ | ⟨_, hr⟩ | ⟨_, _, hr⟩ := writeResultAndFlag_cases s x result flag
  · cases hr.symm.trans h
  · cases hr.symm.trans h
    exact twoWrites x flagReg result flag (by simp) (by simp)
  · cases hr.symm.trans h
    exact twoWrites flagReg x flag result (by simp) (by simp)

/-! ### Exceptions, CALL and RET (R101, R103, R222) -/

theorem takeException_sameBut {e : FaultLatch} {s t : State} (h : takeException e s = .next t) : SameBut [.fault] s t := by
  obtain ⟨_, hr⟩ | ⟨_, hr⟩ := takeException_cases e s
  · cases hr.symm.trans h
    exact setFault_sameBut s e
  · cases hr.symm.trans h

/-- 93 U1: under a stack policy the spec leaves open, an exception stops the machine by the policy's name. -/
theorem takeException_of_openPolicy {s : State} (e : FaultLatch) (h : s.config.stackFault ≠ .fault) :
    takeException e s = .fault (.stackPolicyOpen s.config.stackFault) := by
  obtain ⟨hp, _⟩ | ⟨_, hr⟩ := takeException_cases e s
  · exact absurd hp h
  · exact hr

theorem execCall_of_full {s : State} (nnn : Addr) (h : s.sp.val = 16) :
    execCall nnn s = takeException .stackOverflow s := dif_pos h

theorem execCall_of_room {s : State} (nnn : Addr) (h : s.sp.val < 16) :
    execCall nnn s = .next (setPc (pushReturn s h) nnn) := dif_neg (by omega)

theorem execRet_of_empty {s : State} (h : s.sp.val = 0) : execRet s = takeException .stackUnderflow s := if_pos h

theorem execRet_of_nonempty {s : State} (h : s.sp.val ≠ 0) : execRet s = .next (setPc (popReturn s) (topOfStack s)) :=
  if_neg h

theorem execCall_sameBut {nnn : Addr} {s t : State} (h : execCall nnn s = .next t) :
    SameBut [.pc, .sp, .stack, .fault] s t := by
  by_cases hsp : s.sp.val = 16
  · exact (takeException_sameBut ((execCall_of_full nnn hsp).symm.trans h)).mono (by simp)
  · have room : s.sp.val < 16 := by omega
    cases (execCall_of_room nnn room).symm.trans h
    exact ((pushReturn_sameBut s room).mono (by simp)).trans ((setPc_sameBut _ nnn).mono (by simp))

theorem execRet_sameBut {s t : State} (h : execRet s = .next t) : SameBut [.pc, .sp, .fault] s t := by
  by_cases hsp : s.sp.val = 0
  · exact (takeException_sameBut ((execRet_of_empty hsp).symm.trans h)).mono (by simp)
  · cases (execRet_of_nonempty hsp).symm.trans h
    exact ((popReturn_sameBut s).mono (by simp)).trans ((setPc_sameBut _ _).mono (by simp))

/-! ### Key skips (R172, R173) -/

theorem execSkp_cases (x : Reg) (s : State) :
    (∃ p, keyAnswer s (readReg s x) = some p ∧ execSkp x s = .next (skipIf p s)) ∨
    (keyAnswer s (readReg s x) = none ∧ execSkp x s = .refused .keyOutOfRange) := by
  cases h : keyAnswer s (readReg s x) with
  | some p => exact .inl ⟨p, rfl, by simp [execSkp, h]⟩
  | none => exact .inr ⟨rfl, by simp [execSkp, h]⟩

theorem execSknp_cases (x : Reg) (s : State) :
    (∃ p, keyAnswer s (readReg s x) = some p ∧ execSknp x s = .next (skipIf (!p) s)) ∨
    (keyAnswer s (readReg s x) = none ∧ execSknp x s = .refused .keyOutOfRange) := by
  cases h : keyAnswer s (readReg s x) with
  | some p => exact .inl ⟨p, rfl, by simp [execSknp, h]⟩
  | none => exact .inr ⟨rfl, by simp [execSknp, h]⟩

theorem execSkp_sameBut {x : Reg} {s t : State} (h : execSkp x s = .next t) : SameBut [.pc] s t := by
  obtain ⟨p, _, hr⟩ | ⟨_, hr⟩ := execSkp_cases x s
  · cases hr.symm.trans h
    exact skipIf_sameBut p s
  · cases hr.symm.trans h

theorem execSknp_sameBut {x : Reg} {s t : State} (h : execSknp x s = .next t) : SameBut [.pc] s t := by
  obtain ⟨p, _, hr⟩ | ⟨_, hr⟩ := execSknp_cases x s
  · cases hr.symm.trans h
    exact skipIf_sameBut (!p) s
  · cases hr.symm.trans h

/-! ### Every instruction -/

/-- An instruction writes only the parts its rule names, by the operation its row of the table ends in. -/
theorem exec_sameBut {i : Instr} {s t : State} (h : exec i s = .next t) : SameBut (mayWrite i) s t := by
  cases i with
  | sys _ => cases h; exact SameBut.refl _ s
  | jp _ | jpV0 _ => cases h; exact setPc_sameBut s _
  | call _ => exact execCall_sameBut h
  | ret => exact execRet_sameBut h
  | seImm _ _ | sneImm _ _ | seReg _ _ | sneReg _ _ => cases h; exact skipIf_sameBut _ s
  | skp _ => exact execSkp_sameBut h
  | sknp _ => exact execSknp_sameBut h
  | ldImm _ _ | addImm _ _ | ldReg _ _ | orReg _ _ | andReg _ _ | xorReg _ _ | ldVxDt _ =>
    cases h; exact writeReg_sameBut s _ _
  | addReg _ _ | sub _ _ | shr _ _ | subn _ _ | shl _ _ => exact (writeResultAndFlag_frame h).1
  | ldI _ | addI _ | ldF _ => cases h; exact setI_sameBut s _
  | rnd _ _ =>
    cases h
    exact ((writeReg_sameBut s _ _).mono (by simp [mayWrite])).trans ((countDraw_sameBut _).mono (by simp [mayWrite]))
  | cls => cases h; exact setFb_sameBut s _
  | drw _ _ _ =>
    cases h
    exact ((setFb_sameBut s _).mono (by simp [mayWrite])).trans ((writeReg_sameBut _ _ _).mono (by simp [mayWrite]))
  | ldVxK _ => cases h; exact setMode_sameBut s _
  | ldDtVx _ => cases h; exact setDt_sameBut s _
  | ldStVx _ => cases h; exact setSt_sameBut s _
  | ldB _ | ldMemVx _ => cases h; exact writeBytes_sameBut s _ _
  | ldVxMem x => cases h; exact (foldl_writeReg (regsThrough x) (fun k => readByte s (dataAddress s k.val)) s).2

/-- An instruction writes only its destination registers and, where its rule writes a flag, VF; one that does not write the
part `V` at all writes none. -/
theorem exec_sameRegsBut {i : Instr} {s t : State} (h : exec i s = .next t) : SameRegsBut (destRegs i) s t := by
  cases i with
  | ldImm _ _ | addImm _ _ | ldReg _ _ | orReg _ _ | andReg _ _ | xorReg _ _ | ldVxDt _ =>
    cases h; exact writeReg_sameRegsBut (by simp [destRegs]) s _
  | addReg _ _ | sub _ _ | shr _ _ | subn _ _ | shl _ _ => exact (writeResultAndFlag_frame h).2
  | rnd _ _ =>
    cases h
    exact (writeReg_sameRegsBut (by simp [destRegs]) s _).trans (.of_sameBut (countDraw_sameBut _) (by simp))
  | drw _ _ _ =>
    cases h
    exact (SameRegsBut.of_sameBut (setFb_sameBut s _) (by simp)).trans (writeReg_sameRegsBut (by simp [destRegs]) _ _)
  | ldVxMem x =>
    cases h
    intro z hz
    have hload := (foldl_writeReg (regsThrough x) (fun k => readByte s (dataAddress s k.val)) s).1 z
    exact hload.trans (if_neg hz)
  | sys _ | cls | ret | jp _ | call _ | seImm _ _ | sneImm _ _ | seReg _ _ | sneReg _ _ | ldI _ | jpV0 _ | skp _ | sknp _
  | ldVxK _ | ldDtVx _ | ldStVx _ | addI _ | ldF _ | ldB _ | ldMemVx _ =>
    exact .of_sameBut (exec_sameBut h) (by simp [mayWrite])

/-! ### The statements of 00_scope -/

/-- Settles O51: the frame of every row of the opcode table. -/
theorem instructionsWriteOnlyTheirParts : Obligations.InstructionsWriteOnlyTheirParts :=
  fun _ _ _ h => exec_sameBut h

/-- Settles O52: the register frame of every row of the opcode table. -/
theorem instructionsWriteOnlyTheirRegisters : Obligations.InstructionsWriteOnlyTheirRegisters :=
  fun _ _ _ h => exec_sameRegsBut h

/-- Settles O15: both violations are the entry of an exception, which an open stack policy stops. -/
theorem openStackPolicyStopsByName : Obligations.OpenStackPolicyStopsByName :=
  fun nnn _ hopen =>
    ⟨fun hfull => (execCall_of_full nnn hfull).trans (takeException_of_openPolicy _ hopen),
      fun hempty => (execRet_of_empty hempty).trans (takeException_of_openPolicy _ hopen)⟩

end Sys2Proof.Machine

/-! The invariant of the machine (10_state): power-on establishes it, and a cycle keeps it. What an instruction can do to memory
and to the fault latch is said once each, over every row of the opcode table. -/

namespace Sys2Proof.Machine

/-! ### The invariant at reset and at power-on (R40, R260, R261) -/

theorem one_le_speedInit_of_legal {c : Config} (h : c.legal = true) : 1 ≤ c.speedInit := by
  simp only [Config.legal, Bool.and_eq_true, decide_eq_true_eq] at h
  exact h.1

/-- Reset establishes the invariant from what it leaves alone: `speed` and the parameters. -/
theorem hostReset_inv {s : State} (hspeed : 1 ≤ s.speed) (hlegal : s.config.legal = true) : Inv (hostReset s) :=
  ⟨⟨rfl, hspeed, hlegal, nofun, nofun⟩, rfl⟩

theorem powerOn_inv {c : Config} (keys : KeyLevels) (h : c.legal = true) : Inv (powerOn c keys) :=
  hostReset_inv (one_le_speedInit_of_legal h) h

/-- `State.reset` is the power-on with the recommended parameters and no key down. -/
theorem powerOn_defaultConfig : powerOn defaultConfig noKeysDown = State.reset := rfl

/-- Settles O57: `State.reset` is one of the legal power-ons, each of which ends in a reset. -/
theorem invariantAtReset : Obligations.InvariantAtReset :=
  ⟨powerOn_defaultConfig ▸ powerOn_inv noKeysDown (by decide), fun _ keys h => powerOn_inv keys h⟩

/-! ### What CALL and RET can do (R101, R103, R220, R221) -/

theorem eq_setFault_of_takeException {e : FaultLatch} {s t : State} (h : takeException e s = .next t) : t = setFault s e := by
  obtain ⟨_, hr⟩ | ⟨_, hr⟩ := takeException_cases e s
  · exact (Host.Outcome.next.inj (hr.symm.trans h)).symm
  · cases hr.symm.trans h

theorem execCall_cases {nnn : Addr} {s t : State} (h : execCall nnn s = .next t) :
    (s.sp.val = 16 ∧ t = setFault s .stackOverflow) ∨ ∃ room : s.sp.val < 16, t = setPc (pushReturn s room) nnn := by
  by_cases hsp : s.sp.val = 16
  · exact .inl ⟨hsp, eq_setFault_of_takeException ((execCall_of_full nnn hsp).symm.trans h)⟩
  · have room : s.sp.val < 16 := by omega
    exact .inr ⟨room, (Host.Outcome.next.inj ((execCall_of_room nnn room).symm.trans h)).symm⟩

theorem execRet_cases {s t : State} (h : execRet s = .next t) :
    (s.sp.val = 0 ∧ t = setFault s .stackUnderflow) ∨ (s.sp.val ≠ 0 ∧ t = setPc (popReturn s) (topOfStack s)) := by
  by_cases hsp : s.sp.val = 0
  · exact .inl ⟨hsp, eq_setFault_of_takeException ((execRet_of_empty hsp).symm.trans h)⟩
  · exact .inr ⟨hsp, (Host.Outcome.next.inj ((execRet_of_nonempty hsp).symm.trans h)).symm⟩

/-! ### The fault latch (R220, R221) -/

/-- An instruction leaves the latch alone, or records an overflow over a full stack or an underflow over an empty one. -/
theorem exec_fault_cases {i : Instr} {s t : State} (h : exec i s = .next t) :
    t.fault = s.fault ∨ (t.fault = .stackOverflow ∧ t.sp.val = 16) ∨ (t.fault = .stackUnderflow ∧ t.sp.val = 0) := by
  cases i with
  | call _ =>
    obtain ⟨hfull, rfl⟩ | ⟨_, rfl⟩ := execCall_cases h
    · exact .inr (.inl ⟨rfl, hfull⟩)
    · exact .inl rfl
  | ret =>
    obtain ⟨hempty, rfl⟩ | ⟨_, rfl⟩ := execRet_cases h
    · exact .inr (.inr ⟨rfl, hempty⟩)
    · exact .inl rfl
  | _ => exact .inl (exec_sameBut h .fault (by simp [mayWrite]))

/-! ### Memory as a list of cells (R55)

The frame `SameBut` compares memory byte by byte; the canonical form is a property of the list itself. -/

@[simp] theorem skipIf_mem (c : Bool) (s : State) : (skipIf c s).mem = s.mem := by
  cases c <;> rfl

theorem foldl_writeReg_mem (ks : List Reg) (f : Reg → Byte) (s : State) :
    (ks.foldl (fun t k => writeReg t k (f k)) s).mem = s.mem := by
  induction ks generalizing s with
  | nil => rfl
  | cons k ks ih => exact ih (writeReg s k (f k))

theorem writeResultAndFlag_mem {s t : State} {x : Reg} {result flag : Byte}
    (h : writeResultAndFlag s x result flag = .next t) : t.mem = s.mem := by
  obtain ⟨_, _, hr⟩ | ⟨_, hr⟩ | ⟨_, _, hr⟩ := writeResultAndFlag_cases s x result flag <;> cases hr.symm.trans h <;> rfl

/-- An instruction keeps the list of cells as it is, or stores consecutive bytes and does nothing else. -/
theorem exec_mem_cases {i : Instr} {s t : State} (h : exec i s = .next t) :
    t.mem = s.mem ∨ ∃ a vs, t = writeBytes s a vs := by
  cases i with
  | ldB _ | ldMemVx _ => cases h; exact .inr ⟨_, _, rfl⟩
  | call _ => obtain ⟨_, rfl⟩ | ⟨_, rfl⟩ := execCall_cases h <;> exact .inl rfl
  | ret => obtain ⟨_, rfl⟩ | ⟨_, rfl⟩ := execRet_cases h <;> exact .inl rfl
  | skp x =>
    obtain ⟨p, _, hr⟩ | ⟨_, hr⟩ := execSkp_cases x s <;> cases hr.symm.trans h
    exact .inl (skipIf_mem p s)
  | sknp x =>
    obtain ⟨p, _, hr⟩ | ⟨_, hr⟩ := execSknp_cases x s <;> cases hr.symm.trans h
    exact .inl (skipIf_mem (!p) s)
  | seImm _ _ | sneImm _ _ | seReg _ _ | sneReg _ _ => cases h; exact .inl (skipIf_mem _ s)
  | addReg _ _ | sub _ _ | shr _ _ | subn _ _ | shl _ _ => exact .inl (writeResultAndFlag_mem h)
  | ldVxMem x => cases h; exact .inl (foldl_writeReg_mem (regsThrough x) (fun k => readByte s (dataAddress s k.val)) s)
  | _ => cases h; exact .inl rfl

/-! ### The fields no instruction writes (R34, R41) -/

theorem exec_config {i : Instr} {s t : State} (h : exec i s = .next t) : t.config = s.config :=
  exec_sameBut h .config (by cases i <;> simp [mayWrite])

theorem exec_speed {i : Instr} {s t : State} (h : exec i s = .next t) : t.speed = s.speed :=
  exec_sameBut h .speed (by cases i <;> simp [mayWrite])

/-! ### The invariant through a cycle and a step -/

theorem exec_memory_wf {i : Instr} {s t : State} (h : exec i s = .next t) (hwf : Memory.wf s.config.font s.mem = true) :
    Memory.wf t.config.font t.mem = true := by
  obtain hmem | ⟨a, vs, rfl⟩ := exec_mem_cases h
  · rw [hmem, exec_config h]
    exact hwf
  · exact writeBytes_wf a vs hwf

/-- Behind an empty latch an instruction keeps the invariant. With a fault recorded it would not: RET moves SP. -/
theorem exec_coreInv {i : Instr} {s t : State} (h : exec i s = .next t) (hinv : CoreInv s) (hfault : s.fault = .none) :
    CoreInv t where
  memory := exec_memory_wf h hinv.memory
  speed := exec_speed h ▸ hinv.speed
  config := exec_config h ▸ hinv.config
  overflow hover := by
    obtain hsame | ⟨_, hfull⟩ | ⟨hunder, _⟩ := exec_fault_cases h
    · simp [hsame, hfault] at hover
    · exact hfull
    · simp [hunder] at hover
  underflow hunder := by
    obtain hsame | ⟨hover, _⟩ | ⟨_, hempty⟩ := exec_fault_cases h
    · simp [hsame, hfault] at hunder
    · simp [hover] at hunder
    · exact hempty

theorem advancePc_coreInv {s : State} (h : CoreInv s) : CoreInv (advancePc s) :=
  ⟨h.memory, h.speed, h.config, h.overflow, h.underflow⟩

theorem cycle_coreInv {s t : State} (h : cycle s = .next t) (hinv : CoreInv s) (hfault : s.fault = .none) : CoreInv t := by
  obtain ⟨i, _, hr⟩ | ⟨_, _, hr⟩ := cycle_cases s
  · exact exec_coreInv (hr.symm.trans h) (advancePc_coreInv hinv) hfault
  · cases hr.symm.trans h
    exact advancePc_coreInv hinv

/-- Sampling `sound_on` turns what every cycle keeps into the invariant between host operations (R204). -/
theorem sampleSound_inv {s : State} (h : CoreInv s) : Inv (sampleSound s) :=
  ⟨⟨h.memory, h.speed, h.config, h.overflow, h.underflow⟩, rfl⟩

/-- Settles O58: the gate of R191 lets a cycle run only behind an empty latch, and every step ends in a sample. -/
theorem stepKeepsInvariant : Obligations.StepKeepsInvariant := by
  intro s t ⟨hinv, _⟩ h
  obtain ⟨hgate, u, hu, rfl⟩ | ⟨_, rfl⟩ := step_cases h
  · obtain ⟨hfault, _⟩ := (gateOpen_iff s).mp hgate
    exact sampleSound_inv (cycle_coreInv hu hinv hfault)
  · exact sampleSound_inv hinv

end Sys2Proof.Machine

/-! Memory as instructions see it (20_memory): the fetched word and its two bytes, a word placed where the next cycle fetches, and
the stores of LD B and LD [I], Vx. The two stores are consecutive writes from `I`; what those leave at each address is said once. -/

namespace Sys2Proof.Machine

/-! ### The fetched word (R51) -/

@[simp] theorem highByte_fetchWord (s : State) : highByte (fetchWord s) = readByte s s.pc := highByte_wordOfBytes _ _

@[simp] theorem lowByte_fetchWord (s : State) : lowByte (fetchWord s) = readByte s (s.pc + 1#12) := lowByte_wordOfBytes _ _

theorem wordOfBytes_toNat (hi lo : Byte) : (wordOfBytes hi lo).toNat = 256 * hi.toNat + lo.toNat := by
  rw [wordOfBytes, BitVec.toNat_append, ← Nat.shiftLeft_add_eq_or_of_lt lo.isLt, Nat.shiftLeft_eq, Nat.mul_comm]

/-- Settles O6: addition of addresses wraps by itself. -/
theorem fetchIsBigEndianAndWraps : Obligations.FetchIsBigEndianAndWraps :=
  fun s => ⟨s.pc + 1#12, BitVec.toNat_add _ _, highByte_fetchWord s, lowByte_fetchWord s⟩

/-! ### A placed word (R71, R190, R191) -/

theorem tableWord_toNat (w : Word) : tableWord 16 w.toNat = w := by
  rw [tableWord, Nat.mod_eq_of_lt w.isLt, BitVec.ofNat_toNat, BitVec.setWidth_eq]

/-- The second byte of a placed word does not fall on the first. -/
theorem fetchWord_placeWord (s : State) (w : Word) : fetchWord (placeWord s w) = w := by
  have apart : s.pc ≠ s.pc + 1#12 := by bv_omega
  simp [fetchWord, placeWord, readByte_writeByte, apart, wordOfBytes_bytes]

theorem fetchWord_withFetchWord (s : State) (w : Word) : fetchWord (s.withFetchWord 16 w.toNat) = w := by
  rw [State.withFetchWord, tableWord_toNat]
  exact fetchWord_placeWord s w

theorem gateOpen_withFetchWord (s : State) (nbits w : Nat) : gateOpen (s.withFetchWord nbits w) = true :=
  (gateOpen_iff _).mpr ⟨rfl, rfl⟩

theorem withFetchWord_config (s : State) (nbits w : Nat) : (s.withFetchWord nbits w).config = s.config := rfl

theorem cycle_of_decode {s : State} {i : Instr} (h : decode s.config.strictLowNibble (fetchWord s) = .instr i) :
    cycle s = exec i (advancePc s) := by
  rw [cycle, h]

/-- Behind an open gate a step is a cycle, then the sample of `sound_on` (R198). -/
theorem step_of_gateOpen {s : State} (h : gateOpen s = true) : step s = bindNext (cycle s) fun t => .next (sampleSound t) := by
  rw [step, hostStep, gatedCycle, if_pos h]

/-- Settles O10: the placed word is the one fetched, the gate is open, and the parameters that decode it are the same. -/
theorem placedWordRunsNext : Obligations.PlacedWordRunsNext := by
  intro s w i h
  have hfetched : decode (s.withFetchWord 16 w.toNat).config.strictLowNibble (fetchWord (s.withFetchWord 16 w.toNat)) =
      .instr i := by
    rw [withFetchWord_config, fetchWord_withFetchWord, h]
  rw [step_of_gateOpen (gateOpen_withFetchWord s 16 w.toNat), cycle_of_decode hfetched]

/-! ### Consecutive writes from `I` (R54, R145) -/

theorem readByte_writeBytes_dataAddress (s : State) {vs : List Byte} {k : Nat} (hlen : vs.length ≤ 4096) (hk : k < vs.length) :
    readByte (writeBytes s s.i vs) (dataAddress s k) = vs[k] := by
  rw [readByte_writeBytes s s.i _ vs hlen, distance_dataAddress s (by omega), List.getElem?_eq_getElem hk, Option.getD_some]

theorem readByte_writeBytes_outside (s : State) {a : Addr} {vs : List Byte} (hlen : vs.length ≤ 4096)
    (hout : ∀ k, k < vs.length → dataAddress s k ≠ a) : readByte (writeBytes s s.i vs) a = readByte s a := by
  have hfar : vs.length ≤ (a - s.i).toNat :=
    Nat.le_of_not_lt fun hnear => hout _ hnear (dataAddress_distance s a)
  rw [readByte_writeBytes s s.i a vs hlen, List.getElem?_eq_none hfar, Option.getD_none]

theorem writeBytes_pc (s : State) (a : Addr) (vs : List Byte) : (writeBytes s a vs).pc = s.pc :=
  writeBytes_sameBut s a vs .pc (by simp)

/-- Consecutive writes from `I` are seen by the very next fetch (R62): in each half separately, the byte written there or the one
that was there before. -/
theorem fetchSeesStore_writeBytes (s : State) {vs : List Byte} {byteAt : Nat → Byte} (hlen : vs.length ≤ 4096)
    (hbyte : ∀ k (hk : k < vs.length), vs[k] = byteAt k) : FetchSeesStore s (writeBytes s s.i vs) vs.length byteAt := by
  have stored : ∀ k, k < vs.length → readByte (writeBytes s s.i vs) (dataAddress s k) = byteAt k :=
    fun k hk => (readByte_writeBytes_dataAddress s hlen hk).trans (hbyte k hk)
  refine ⟨writeBytes_pc s s.i vs, fun k hk => ⟨fun hhigh => ?_, fun hlow => ?_⟩, fun hout => ?_, fun hout => ?_⟩
  · rw [highByte_fetchWord, writeBytes_pc, ← hhigh, stored k hk]
  · rw [lowByte_fetchWord, writeBytes_pc, ← hlow, stored k hk]
  · rw [highByte_fetchWord, writeBytes_pc, readByte_writeBytes_outside s hlen hout]
  · rw [lowByte_fetchWord, writeBytes_pc, readByte_writeBytes_outside s hlen hout]

/-! ### What the two stores write (R144, R146) -/

theorem regsThrough_length (x : Reg) : (regsThrough x).length = x.val + 1 := by
  revert x; decide

theorem regsThrough_getElem? (x : Reg) (k : Fin 16) (h : k ≤ x) : (regsThrough x)[k.val]? = some k := by
  revert x k; decide

/-- The bytes LD [I], Vx stores, as many as there are registers up to x. -/
theorem storedRegs_length (x : Reg) (s : State) : ((regsThrough x).map (readReg s)).length = x.val + 1 := by
  rw [List.length_map, regsThrough_length]

theorem storedRegs_getElem (x : Reg) (s : State) (k : Nat) (hk : k < ((regsThrough x).map (readReg s)).length) :
    ((regsThrough x).map (readReg s))[k] = readReg s (Fin.ofNat 16 k) := by
  have hle : k ≤ x.val := Nat.le_of_lt_succ (hk.trans_eq (storedRegs_length x s))
  have hreg : (regsThrough x)[(Fin.ofNat 16 k).val]? = some (Fin.ofNat 16 k) :=
    regsThrough_getElem? x _ ((Nat.mod_le k 16).trans hle)
  have hval : (Fin.ofNat 16 k).val = k := Nat.mod_eq_of_lt (by omega)
  rw [hval] at hreg
  rw [List.getElem_map, (List.getElem?_eq_some_iff.mp hreg).2]

/-- The k-th stored digit is the one of weight `10 ^ (2 - k)`. -/
theorem decimalDigits_getElem (b : Byte) (k : Nat) (hk : k < (decimalDigits b).length) :
    (decimalDigits b)[k] = BitVec.ofNat 8 (b.toNat / 10 ^ (2 - k) % 10) := by
  have hundreds : b.toNat / 100 < 10 := by omega
  match k, hk with
  | 0, _ => exact congrArg (BitVec.ofNat 8) (Nat.mod_eq_of_lt hundreds).symm
  | 1, _ => rfl
  | 2, _ => exact congrArg (BitVec.ofNat 8) (by simp)

theorem fetchSeesStore_ldMemVx (x : Reg) (s : State) :
    FetchSeesStore s (writeBytes s s.i ((regsThrough x).map (readReg s))) (x.val + 1) fun k => readReg s (Fin.ofNat 16 k) := by
  have hlen := storedRegs_length x s
  exact hlen ▸ fetchSeesStore_writeBytes s (by omega) (storedRegs_getElem x s)

theorem fetchSeesStore_ldB (x : Reg) (s : State) :
    FetchSeesStore s (writeBytes s s.i (decimalDigits (readReg s x))) 3
      fun k => BitVec.ofNat 8 ((readReg s x).toNat / 10 ^ (2 - k) % 10) :=
  fetchSeesStore_writeBytes s (by simp [decimalDigits]) (decimalDigits_getElem (readReg s x))

/-- A store of at least two bytes at `I = PC` replaces the whole fetched word. -/
theorem FetchSeesStore.word {s t : State} {n : Nat} {byteAt : Nat → Byte} (h : FetchSeesStore s t n byteAt) (hn : 2 ≤ n)
    (hi : s.i = s.pc) : fetchWord t = wordOfBytes (byteAt 0) (byteAt 1) := by
  obtain ⟨_, hstored, _, _⟩ := h
  have hhigh : highByte (fetchWord t) = byteAt 0 := (hstored 0 (by omega)).1 (by simp [dataAddress, hi])
  have hlow : lowByte (fetchWord t) = byteAt 1 := (hstored 1 (by omega)).2 (by simp [dataAddress, hi])
  rw [← wordOfBytes_bytes (fetchWord t), hhigh, hlow]

/-- Settles O33: both stores are consecutive writes from `I`, whose bytes are the registers up to x, or the three digits. -/
theorem storeSeenByNextFetch : Obligations.StoreSeenByNextFetch := by
  intro x s
  refine ⟨⟨_, rfl, fetchSeesStore_ldMemVx x s, fun hx hi => ?_⟩, ⟨_, rfl, fetchSeesStore_ldB x s⟩⟩
  rw [(fetchSeesStore_ldMemVx x s).word (by omega) hi, wordOfBytes_toNat]
  rfl

/-! ### The bytes outside a store (R54, R55) -/

theorem readByte_writeBytes_of_not_mem (s : State) {a : Addr} {vs : List Byte} {n : Nat} (hn : vs.length = n) (hle : n ≤ 4096)
    (ha : a ∉ (List.range n).map (dataAddress s)) : readByte (writeBytes s s.i vs) a = readByte s a := by
  subst hn
  exact readByte_writeBytes_outside s hle fun k hk hka => ha (List.mem_map.mpr ⟨k, List.mem_range.mpr hk, hka⟩)

/-- Settles O53: the two stores leave every byte outside their addresses, and by the frame of the opcode table (R11) no other
instruction writes memory. -/
theorem instructionsStoreOnlyTheirBytes : Obligations.InstructionsStoreOnlyTheirBytes := by
  intro i s t h a ha
  cases i with
  | ldB x =>
    cases h
    exact readByte_writeBytes_of_not_mem s (n := 3) rfl (by omega) ha
  | ldMemVx x =>
    cases h
    exact readByte_writeBytes_of_not_mem s (storedRegs_length x s) (by omega) ha
  | _ => exact exec_sameBut h .mem (by simp [mayWrite]) a

end Sys2Proof.Machine

/-! The decoder and the encoder undo each other (30_encoding). The decoder selects on `op`, then inside six groups on the rest of the word;
every statement about it follows that selection, group by group. -/

namespace Sys2Proof.Machine

/-! ### A word from its `op` and its other fields (R72, R73) -/

theorem encodeNNN_of_opField {op : Nibble} {w : Word} (hop : (opField w).toNat = op.toNat) :
    encodeNNN op (nnnField w) = w :=
  BitVec.eq_of_toNat_eq hop ▸ encodeNNN_fields w

theorem encodeXNN_of_opField {op : Nibble} {w : Word} (hop : (opField w).toNat = op.toNat) :
    encodeXNN op (xField w) (nnField w) = w :=
  BitVec.eq_of_toNat_eq hop ▸ encodeXNN_fields w

theorem encodeXYN_of_opField {op : Nibble} {w : Word} (hop : (opField w).toNat = op.toNat) :
    encodeXYN op (xField w) (yField w) (nField w) = w :=
  BitVec.eq_of_toNat_eq hop ▸ encodeXYN_fields w

/-! ### Decoding an encoded instruction (R75, R76, R78) -/

theorem encodeNNN_left_inj {op : Nibble} {a b : Addr} : encodeNNN op a = encodeNNN op b ↔ a = b :=
  ⟨fun h => by rw [← nnnField_encodeNNN op a, h, nnnField_encodeNNN], fun h => h ▸ rfl⟩

/-- R78: outside 0x0E0 and 0x0EE a word with `op` = 0 is SYS. -/
theorem decode_encode_sys (strict : Bool) {nnn : Addr} (hcls : nnn ≠ 0x0E0#12) (hret : nnn ≠ 0x0EE#12) :
    decode strict (encodeNNN 0x0#4 nnn) = .instr (.sys nnn) := by
  have hcls' : encodeNNN 0x0#4 nnn ≠ 0x00E0#16 := encodeNNN_left_inj.not.mpr hcls
  have hret' : encodeNNN 0x0#4 nnn ≠ 0x00EE#16 := encodeNNN_left_inj.not.mpr hret
  simp [decode, decodeGroup0, hcls', hret']

theorem decode_encode (strict : Bool) {i : Instr} (hwf : wellFormed i = true) : decode strict (encode i) = .instr i := by
  cases i with
  | sys nnn =>
    obtain ⟨hcls, hret⟩ : nnn ≠ 0x0E0#12 ∧ nnn ≠ 0x0EE#12 := by simpa [wellFormed] using hwf
    exact decode_encode_sys strict hcls hret
  | cls | ret => rfl
  | jp _ | call _ | ldI _ | jpV0 _ => simp [encode, decode]
  | seImm _ _ | sneImm _ _ | ldImm _ _ | addImm _ _ | rnd _ _ | drw _ _ _ => simp [encode, decode]
  | seReg _ _ => simp [encode, decode, decodeGroup5]
  | ldReg _ _ | orReg _ _ | andReg _ _ | xorReg _ _ | addReg _ _ | sub _ _ | shr _ _ | subn _ _ | shl _ _ =>
    simp [encode, decode, decodeGroup8]
  | sneReg _ _ => simp [encode, decode, decodeGroup9]
  | skp _ | sknp _ => simp [encode, decode, decodeGroupE]
  | ldVxDt _ | ldVxK _ | ldDtVx _ | ldStVx _ | addI _ | ldF _ | ldB _ | ldMemVx _ | ldVxMem _ =>
    simp [encode, decode, decodeGroupF]

/-- Settles O1: the decoder reads `op` and the secondary field back from the composed word, and by well-formedness no SYS has the
word of CLS or RET. -/
theorem decodeOfEncode : Obligations.DecodeOfEncode :=
  fun strict _ hwf => decode_encode strict hwf

/-! ### Encoding a decoded word (R75, R76, R78) -/

theorem encodeXYN_of_opField_nField {op n : Nibble} {w : Word} (hop : (opField w).toNat = op.toNat) (hn : nField w = n) :
    encodeXYN op (xField w) (yField w) n = w :=
  hn ▸ encodeXYN_of_opField hop

theorem encodeXNN_of_opField_nnField {op : Nibble} {nn : Byte} {w : Word} (hop : (opField w).toNat = op.toNat)
    (hnn : nnField w = nn) : encodeXNN op (xField w) nn = w :=
  hnn ▸ encodeXNN_of_opField hop

/-- `i` is a well-formed instruction whose word is `w`. -/
def IsRowOf (w : Word) (i : Instr) : Prop := wellFormed i = true ∧ encode i = w

theorem isRowOf_decodeGroup0 {w : Word} {i : Instr} (hop : (opField w).toNat = 0x0) (h : decodeGroup0 w = .instr i) :
    IsRowOf w i := by
  have hw : encodeNNN 0x0#4 (nnnField w) = w := encodeNNN_of_opField hop
  unfold decodeGroup0 at h
  split_ifs at h with hcls hret <;> cases h
  · exact ⟨rfl, hcls.symm⟩
  · exact ⟨rfl, hret.symm⟩
  · have hcls' : nnnField w ≠ 0x0E0#12 := fun e => hcls (by rw [← hw, e]; rfl)
    have hret' : nnnField w ≠ 0x0EE#12 := fun e => hret (by rw [← hw, e]; rfl)
    exact ⟨by simp [wellFormed, hcls', hret'], hw⟩

theorem isRowOf_decodeGroup5 {w : Word} {i : Instr} (hop : (opField w).toNat = 0x5) (h : decodeGroup5 true w = .instr i) :
    IsRowOf w i := by
  simp only [decodeGroup5, reduceCtorEq, or_false] at h
  split_ifs at h with hn
  cases h
  exact ⟨rfl, encodeXYN_of_opField_nField hop hn⟩

theorem isRowOf_decodeGroup8 {w : Word} {i : Instr} (hop : (opField w).toNat = 0x8) (h : decodeGroup8 w = .instr i) :
    IsRowOf w i := by
  unfold decodeGroup8 at h
  split at h <;> cases h <;> exact ⟨rfl, encodeXYN_of_opField_nField hop (BitVec.eq_of_toNat_eq ‹_›)⟩

theorem isRowOf_decodeGroup9 {w : Word} {i : Instr} (hop : (opField w).toNat = 0x9) (h : decodeGroup9 true w = .instr i) :
    IsRowOf w i := by
  simp only [decodeGroup9, reduceCtorEq, or_false] at h
  split_ifs at h with hn
  cases h
  exact ⟨rfl, encodeXYN_of_opField_nField hop hn⟩

theorem isRowOf_decodeGroupE {w : Word} {i : Instr} (hop : (opField w).toNat = 0xE) (h : decodeGroupE w = .instr i) :
    IsRowOf w i := by
  unfold decodeGroupE at h
  split_ifs at h with hnn hnn <;> cases h <;> exact ⟨rfl, encodeXNN_of_opField_nnField hop hnn⟩

theorem isRowOf_decodeGroupF {w : Word} {i : Instr} (hop : (opField w).toNat = 0xF) (h : decodeGroupF w = .instr i) :
    IsRowOf w i := by
  simp only [decodeGroupF] at h
  split_ifs at h <;> cases h <;> exact ⟨rfl, encodeXNN_of_opField_nnField hop ‹_›⟩

theorem isRowOf_of_decode {w : Word} {i : Instr} (h : decode true w = .instr i) : IsRowOf w i := by
  match hop : (opField w).toNat, (opField w).isLt with
  | 0x0, _ => rw [decode, hop] at h; exact isRowOf_decodeGroup0 hop h
  | 0x1, _ | 0x2, _ | 0xA, _ | 0xB, _ => rw [decode, hop] at h; cases h; exact ⟨rfl, encodeNNN_of_opField hop⟩
  | 0x3, _ | 0x4, _ | 0x6, _ | 0x7, _ | 0xC, _ => rw [decode, hop] at h; cases h; exact ⟨rfl, encodeXNN_of_opField hop⟩
  | 0xD, _ => rw [decode, hop] at h; cases h; exact ⟨rfl, encodeXYN_of_opField hop⟩
  | 0x5, _ => rw [decode, hop] at h; exact isRowOf_decodeGroup5 hop h
  | 0x8, _ => rw [decode, hop] at h; exact isRowOf_decodeGroup8 hop h
  | 0x9, _ => rw [decode, hop] at h; exact isRowOf_decodeGroup9 hop h
  | 0xE, _ => rw [decode, hop] at h; exact isRowOf_decodeGroupE hop h
  | 0xF, _ => rw [decode, hop] at h; exact isRowOf_decodeGroupF hop h
  | _ + 16, hlt => omega

/-- Settles O2: outside the six groups the word is composed of the operands read and the fixed `op`; inside them the test that
selected the row fixes the rest of the word. -/
theorem encodeOfDecode : Obligations.EncodeOfDecode :=
  fun _ _ h => isRowOf_of_decode h

/-! ### The unknown encodings (R80) -/

theorem decodeGroup0_ne_unknown (w : Word) (u : UnknownSpace) : decodeGroup0 w ≠ .unknown u := by
  unfold decodeGroup0
  split_ifs <;> simp

theorem decodeGroup5_eq_unknown {w : Word} {u : UnknownSpace} :
    decodeGroup5 true w = .unknown u ↔ u = .group5 ∧ (nField w).toNat ≠ 0 := by
  unfold decodeGroup5
  split_ifs <;> simp_all [eq_comm, BitVec.toNat_eq]

theorem decodeGroup8_eq_unknown {w : Word} {u : UnknownSpace} :
    decodeGroup8 w = .unknown u ↔ u = .group8 ∧ (nField w).toNat ∈ [0x8, 0x9, 0xA, 0xB, 0xC, 0xD, 0xF] := by
  have hlt : (nField w).toNat < 16 := (nField w).isLt
  unfold decodeGroup8
  interval_cases (nField w).toNat <;> simp [eq_comm]

theorem decodeGroup9_eq_unknown {w : Word} {u : UnknownSpace} :
    decodeGroup9 true w = .unknown u ↔ u = .group9 ∧ (nField w).toNat ≠ 0 := by
  unfold decodeGroup9
  split_ifs <;> simp_all [eq_comm, BitVec.toNat_eq]

theorem decodeGroupE_eq_unknown {w : Word} {u : UnknownSpace} :
    decodeGroupE w = .unknown u ↔ u = .groupE ∧ (nnField w).toNat ∉ [0x9E, 0xA1] := by
  unfold decodeGroupE
  split_ifs <;> simp_all [eq_comm, BitVec.toNat_eq]

theorem decodeGroupF_eq_unknown {w : Word} {u : UnknownSpace} :
    decodeGroupF w = .unknown u ↔
      u = .groupF ∧ (nnField w).toNat ∉ [0x07, 0x0A, 0x15, 0x18, 0x1E, 0x29, 0x33, 0x55, 0x65] := by
  simp only [decodeGroupF]
  split_ifs <;> simp_all [eq_comm, BitVec.toNat_eq]

/-- Settles O3: a word with a row wherever its `op` leads lies in no space; in the five groups the tests for rows that all fail
are the condition of the group's space. -/
theorem unknownWordsExactly : Obligations.UnknownWordsExactly := by
  intro w u
  match hop : (opField w).toNat, (opField w).isLt with
  | 0x0, _ =>
    rw [decode, hop]
    exact iff_of_false (decodeGroup0_ne_unknown w u) (by cases u <;> simp [InUnknownSpace, hop])
  | 0x1, _ | 0x2, _ | 0x3, _ | 0x4, _ | 0x6, _ | 0x7, _ | 0xA, _ | 0xB, _ | 0xC, _ | 0xD, _ =>
    rw [decode, hop]
    exact iff_of_false nofun (by cases u <;> simp [InUnknownSpace, hop])
  | 0x5, _ =>
    rw [decode, hop]
    exact decodeGroup5_eq_unknown.trans (by cases u <;> simp [InUnknownSpace, hop])
  | 0x8, _ =>
    rw [decode, hop]
    exact decodeGroup8_eq_unknown.trans (by cases u <;> simp [InUnknownSpace, hop])
  | 0x9, _ =>
    rw [decode, hop]
    exact decodeGroup9_eq_unknown.trans (by cases u <;> simp [InUnknownSpace, hop])
  | 0xE, _ =>
    rw [decode, hop]
    exact decodeGroupE_eq_unknown.trans (by cases u <;> simp [InUnknownSpace, hop])
  | 0xF, _ =>
    rw [decode, hop]
    exact decodeGroupF_eq_unknown.trans (by cases u <;> simp [InUnknownSpace, hop])
  | _ + 16, hlt => omega

/-! ### Lax secondary decode (R80) -/

theorem decode_of_opField_five {w : Word} (strict : Bool) (hop : (opField w).toNat = 0x5) :
    decode strict w = decodeGroup5 strict w := by
  simp only [decode, hop]

theorem decode_of_opField_nine {w : Word} (strict : Bool) (hop : (opField w).toNat = 0x9) :
    decode strict w = decodeGroup9 strict w := by
  simp only [decode, hop]

/-- Only the groups 5 and 9 look at `STRICT_LOW_NIBBLE`. -/
theorem decode_strict_irrelevant {w : Word} (strict : Bool) (hfive : (opField w).toNat ≠ 0x5) (hnine : (opField w).toNat ≠ 0x9) :
    decode strict w = decode true w := by
  unfold decode
  split
  case h_6 hop => exact absurd hop hfive
  case h_10 hop => exact absurd hop hnine
  all_goals rfl

/-- Settles O4: under lax decode the tests of groups 5 and 9 accept every `n`. -/
theorem laxDecodeDiffersOnlyInFiveAndNine : Obligations.LaxDecodeDiffersOnlyInFiveAndNine := by
  intro w
  split_ifs with hfive hnine
  · exact (decode_of_opField_five false hfive).trans (if_pos (.inr rfl))
  · exact (decode_of_opField_nine false hnine).trans (if_pos (.inr rfl))
  · exact decode_strict_irrelevant false hfive hnine

/-! ### The words of the opcode table (R71, R76) -/

theorem decodeTableWord_encode {i : Instr} (hwf : wellFormed i = true) : decodeTableWord 16 (encode i).toNat = some i := by
  rw [decodeTableWord, tableWord_toNat, decodeBytes, wordOfBytes_bytes, decode_encode true hwf]

/-- Settles O5: each listed word but the last is the encoding of its instruction; the last lies in the space of 5xyn. -/
theorem sampleWordsDecode : Obligations.SampleWordsDecode :=
  ⟨decodeTableWord_encode (i := .cls) rfl, decodeTableWord_encode (i := .ret) rfl,
    decodeTableWord_encode (i := .sys 0x123) rfl, decodeTableWord_encode (i := .jp 0xABC) rfl,
    decodeTableWord_encode (i := .seImm 0x3 0x2A) rfl, decodeTableWord_encode (i := .addReg 0xA 0xB) rfl,
    decodeTableWord_encode (i := .ldI 0x300) rfl, decodeTableWord_encode (i := .rnd 0x3 0x0F) rfl,
    decodeTableWord_encode (i := .drw 0x1 0x2 0x5) rfl, decodeTableWord_encode (i := .skp 0x1) rfl,
    decodeTableWord_encode (i := .ldVxK 0x3) rfl, decodeTableWord_encode (i := .ldVxMem 0x2) rfl, rfl⟩

/-! ### A step over an unknown encoding (R80, R190) -/

theorem cycle_of_unknown {s : State} {u : UnknownSpace} (h : decode s.config.strictLowNibble (fetchWord s) = .unknown u) :
    cycle s = .next (advancePc s) := by
  rw [cycle, h]

/-- Settles O8: the cycle is the advance of PC alone, and the step samples `sound_on` behind it. -/
theorem unknownEncodingIsNoOp : Obligations.UnknownEncodingIsNoOp := by
  intro s u hfault hmode hdecode
  have hstep : step s = .next (sampleSound (advancePc s)) := by
    rw [step_of_gateOpen ((gateOpen_iff s).mpr ⟨hfault, hmode⟩), cycle_of_unknown hdecode, bindNext_next]
  have hframe : SameBut [.pc, .soundOn] s (sampleSound (advancePc s)) :=
    ((advancePc_sameBut s).mono (by simp)).trans ((sampleSound_sameBut _).mono (by simp))
  exact ⟨_, hstep, BitVec.toNat_add _ _, rfl, hframe⟩

end Sys2Proof.Machine

/-! Which runs complete (30_encoding R81, 45_cycle_scheduler R193, 60_exceptions R225). First what a run of host operations answers
when each of its parts answers, whatever is kept on the way; then each part, under parameters that give every instruction a
meaning. -/

namespace Sys2Proof.Machine

/-! ### Answering a next state -/

/-- `r` is a next state, and `P` holds of it. -/
def Answers (P : State → Prop) (r : Result) : Prop := ∃ t, r = .next t ∧ P t

theorem answers_next {P : State → Prop} {t : State} (h : P t) : Answers P (.next t) := ⟨t, rfl, h⟩

theorem Answers.bindNext {P Q : State → Prop} {r : Result} {f : State → Result} (h : Answers P r)
    (hf : ∀ t, P t → Answers Q (f t)) : Answers Q (bindNext r f) := by
  obtain ⟨t, rfl, ht⟩ := h
  exact hf t ht

section
variable {P : State → Prop}

theorem runBoundary_answers {ops : List BoundaryOp} {s : State}
    (hop : ∀ op ∈ ops, ∀ a, P a → Answers P (applyBoundary op a)) (hs : P s) : Answers P (runBoundary ops s) := by
  induction ops generalizing s with
  | nil => exact answers_next hs
  | cons op ops ih =>
    obtain ⟨hfirst, hrest⟩ := List.forall_mem_cons.mp hop
    exact (hfirst s hs).bindNext fun _ ht => ih hrest ht

theorem runSlotsAmid_answers {k : Nat} {amid : List (List BoundaryOp)} {s : State} (hslot : ∀ a, P a → Answers P (slot a))
    (hop : ∀ op ∈ amid.flatten, ∀ a, P a → Answers P (applyBoundary op a)) (hs : P s) :
    Answers P (runSlotsAmid k amid s) := by
  induction k generalizing amid s with
  | zero => exact answers_next hs
  | succ k ih =>
    have hhead : ∀ op ∈ amid.headD [], op ∈ amid.flatten := by cases amid <;> simp +contextual
    have htail : ∀ op ∈ amid.tail.flatten, op ∈ amid.flatten := by cases amid <;> simp +contextual
    exact (runBoundary_answers (fun op ho => hop op (hhead op ho)) hs).bindNext fun t ht =>
      (hslot t ht).bindNext fun _ hu => ih (fun op ho => hop op (htail op ho)) hu

theorem tickAmid_answers {amid : List (List BoundaryOp)} {s : State} (hslot : ∀ a, P a → Answers P (slot a))
    (hop : ∀ op ∈ amid.flatten, ∀ a, P a → Answers P (applyBoundary op a))
    (hend : ∀ a, P a → P (sampleSound (tickTimers a))) (hs : P s) : Answers P (tickAmid amid s) := by
  have hlast : ∀ op ∈ amid[s.speed]?.getD [], op ∈ amid.flatten := by
    intro op ho
    cases hget : amid[s.speed]? with
    | none => simp [hget] at ho
    | some ops => exact List.mem_flatten.mpr ⟨ops, List.mem_of_getElem? hget, by simpa [hget] using ho⟩
  exact (runSlotsAmid_answers hslot hop hs).bindNext fun _ ht =>
    (runBoundary_answers (fun op ho => hop op (hlast op ho)) ht).bindNext fun u hu => answers_next (hend u hu)

theorem runHost_answers {ops : List HostOp} {s : State} (hop : ∀ op ∈ ops, ∀ a, P a → Answers P (applyHost op a)) (hs : P s) :
    Answers P (runHost ops s) := by
  induction ops generalizing s with
  | nil => exact answers_next hs
  | cons op ops ih =>
    obtain ⟨hfirst, hrest⟩ := List.forall_mem_cons.mp hop
    exact (hfirst s hs).bindNext fun _ ht => ih hrest ht

end

/-! ### Every instruction has a meaning (R131, R172, R222) -/

theorem writeResultAndFlag_completes {s : State} (hvf : s.config.vfDest ≠ .refuse) (x : Reg) (result flag : Byte) :
    ∃ t, writeResultAndFlag s x result flag = .next t := by
  obtain ⟨hrefuse, _⟩ | ⟨_, hr⟩ | ⟨_, _, hr⟩ := writeResultAndFlag_cases s x result flag
  · exact absurd hrefuse hvf
  · exact ⟨_, hr⟩
  · exact ⟨_, hr⟩

theorem takeException_completes {s : State} (hstack : s.config.stackFault = .fault) (e : FaultLatch) :
    ∃ t, takeException e s = .next t := by
  obtain ⟨_, hr⟩ | ⟨hopen, _⟩ := takeException_cases e s
  · exact ⟨_, hr⟩
  · exact absurd hstack hopen

theorem execCall_completes {s : State} (hstack : s.config.stackFault = .fault) (nnn : Addr) :
    ∃ t, execCall nnn s = .next t := by
  by_cases hsp : s.sp.val = 16
  · exact execCall_of_full nnn hsp ▸ takeException_completes hstack _
  · exact ⟨_, execCall_of_room nnn (by omega)⟩

theorem execRet_completes {s : State} (hstack : s.config.stackFault = .fault) : ∃ t, execRet s = .next t := by
  by_cases hsp : s.sp.val = 0
  · exact execRet_of_empty hsp ▸ takeException_completes hstack _
  · exact ⟨_, execRet_of_nonempty hsp⟩

theorem keyAnswer_ne_none {s : State} (hkey : s.config.keyRange ≠ .refuse) (b : Byte) : keyAnswer s b ≠ none := by
  by_cases hb : b.toNat ≤ 15
  · simp [keyAnswer_le hb]
  · obtain ⟨_, hr⟩ | ⟨_, hr⟩ | ⟨hrefuse, _⟩ := keyAnswer_gt (s := s) (Nat.lt_of_not_le hb)
    · simp [hr]
    · simp [hr]
    · exact absurd hrefuse hkey

theorem execSkp_completes {s : State} (hkey : s.config.keyRange ≠ .refuse) (x : Reg) : ∃ t, execSkp x s = .next t := by
  obtain ⟨_, _, hr⟩ | ⟨hnone, _⟩ := execSkp_cases x s
  · exact ⟨_, hr⟩
  · exact absurd hnone (keyAnswer_ne_none hkey _)

theorem execSknp_completes {s : State} (hkey : s.config.keyRange ≠ .refuse) (x : Reg) : ∃ t, execSknp x s = .next t := by
  obtain ⟨_, _, hr⟩ | ⟨hnone, _⟩ := execSknp_cases x s
  · exact ⟨_, hr⟩
  · exact absurd hnone (keyAnswer_ne_none hkey _)

/-- Only the flag-writing instructions, the key skips, CALL and RET can stop the model, each by a parameter. -/
theorem exec_completes {s : State} (h : FullyDefined s.config) (i : Instr) : ∃ t, exec i s = .next t := by
  obtain ⟨hvf, hkey, hstack⟩ := h
  cases i with
  | addReg _ _ | sub _ _ | shr _ _ | subn _ _ | shl _ _ => exact writeResultAndFlag_completes hvf _ _ _
  | skp x => exact execSkp_completes hkey x
  | sknp x => exact execSknp_completes hkey x
  | call nnn => exact execCall_completes hstack nnn
  | ret => exact execRet_completes hstack
  | _ => exact ⟨_, rfl⟩

/-! ### The parameters through the host's operations (R41) -/

@[simp] theorem keyPress_config (k : Key) (s : State) : (keyPress k s).config = s.config := by
  unfold keyPress
  split <;> rfl

@[simp] theorem keyDown_config (k : Key) (s : State) : (keyDown k s).config = s.config := by
  unfold keyDown
  split_ifs
  · rfl
  · exact keyPress_config k _

@[simp] theorem acceptOrKeep_setSpeed_config (n : Nat) (s : State) : (acceptOrKeep s (setSpeed n s)).config = s.config := by
  unfold setSpeed
  split_ifs <;> rfl

@[simp] theorem writeBytes_config (s : State) (a : Addr) (vs : List Byte) : (writeBytes s a vs).config = s.config :=
  writeBytes_sameBut s a vs .config (by simp)

@[simp] theorem acceptOrKeep_loadProgram_config (bytes : List Byte) (s : State) :
    (acceptOrKeep s (loadProgram bytes s)).config = s.config := by
  unfold loadProgram
  split_ifs
  · rfl
  · rfl
  · exact writeBytes_config s _ bytes

@[simp] theorem tickTimers_config (s : State) : (tickTimers s).config = s.config := by
  unfold tickTimers
  split_ifs <;> rfl

/-! ### Every operation completes with the parameters unchanged (R41, R193) -/

section
variable {c : Config} (hc : FullyDefined c)
include hc

theorem cycle_completes {s : State} (hs : s.config = c) : Answers (·.config = c) (cycle s) := by
  subst hs
  obtain ⟨i, _, hr⟩ | ⟨_, _, hr⟩ := cycle_cases s
  · obtain ⟨t, ht⟩ := exec_completes (s := advancePc s) hc i
    have hconfig : t.config = (advancePc s).config := exec_config ht
    exact ⟨t, hr.trans ht, hconfig⟩
  · exact ⟨_, hr, rfl⟩

theorem slot_completes {s : State} (hs : s.config = c) : Answers (·.config = c) (slot s) := by
  obtain ⟨_, hr⟩ | ⟨_, hr⟩ := slot_cases s
  · exact hr ▸ cycle_completes hc hs
  · exact hr ▸ answers_next hs

theorem step_completes {s : State} (hs : s.config = c) : Answers (·.config = c) (step s) := by
  have hgated : Answers (·.config = c) (gatedCycle s) := by
    unfold gatedCycle
    split_ifs
    · exact cycle_completes hc hs
    · exact answers_next hs
  exact hgated.bindNext fun _ ht => answers_next ht

theorem applyBoundary_completes (op : BoundaryOp) {s : State} (hs : s.config = c) :
    Answers (·.config = c) (applyBoundary op s) := by
  subst hs
  cases op with
  | step => exact step_completes hc rfl
  | loadProgram bytes => exact answers_next (acceptOrKeep_loadProgram_config bytes s)
  | setSpeed n => exact answers_next (acceptOrKeep_setSpeed_config n s)
  | keyPress k => exact answers_next (keyPress_config k s)
  | keyDown k => exact answers_next (keyDown_config k s)
  | reset | pause | run | keyUp _ => exact answers_next rfl

theorem applyHost_completes (op : HostOp) {s : State} (hs : s.config = c) :
    Answers (·.config = c) (applyHost op s) := by
  cases op with
  | boundary op => exact applyBoundary_completes hc op hs
  | tick amid =>
    exact tickAmid_answers (fun _ ha => slot_completes hc ha) (fun op _ _ ha => applyBoundary_completes hc op ha)
      (fun a ha => (tickTimers_config a).trans ha) hs

end

/-- Settles O56: every operation completes and keeps the parameters, so the next one runs under them too. -/
theorem everyRunCompletes : Obligations.EveryRunCompletes :=
  fun _ _ hc => runHost_answers (fun op _ _ ha => applyHost_completes hc op ha) rfl

end Sys2Proof.Machine

/-! Control flow (40_control_flow). First what a skip leaves in PC and what CALL and RET leave in the stack, then the execute
phases, then the two steps of a call and its return. -/

namespace Sys2Proof.Machine

/-! ### Jumps and skips (R100, R102, R104 to R108) -/

/-- Settles O11: the execute phase of SYS answers the state it was given. -/
theorem sysIsNoOp : Obligations.SysIsNoOp := fun _ _ => rfl

theorem addr_add_zeroExtend_toNat (a : Addr) (b : Byte) : (a + b.zeroExtend 12).toNat = (a.toNat + b.toNat) % 4096 := by
  rw [BitVec.toNat_add, BitVec.zeroExtend, BitVec.toNat_setWidth_of_le (by decide)]

/-- Settles O12: both jumps are one write of PC. -/
theorem jumpsSetPc : Obligations.JumpsSetPc := fun nnn s =>
  ⟨⟨_, rfl, rfl, setPc_sameBut s nnn⟩, ⟨_, rfl, addr_add_zeroExtend_toNat nnn (readReg s 0), setPc_sameBut s _⟩⟩

theorem skipIf_pc_toNat (c : Bool) (s : State) : (skipIf c s).pc.toNat = (s.pc.toNat + if c then 2 else 0) % 4096 := by
  cases c with
  | false => exact (Nat.mod_eq_of_lt s.pc.isLt).symm
  | true => exact BitVec.toNat_add s.pc 2#12

theorem skipIf_beq_pc_toNat (a b : Byte) (s : State) :
    (skipIf (a == b) s).pc.toNat = (s.pc.toNat + if a = b then 2 else 0) % 4096 := by
  simp only [skipIf_pc_toNat, beq_iff_eq]

theorem skipIf_bne_pc_toNat (a b : Byte) (s : State) :
    (skipIf (a != b) s).pc.toNat = (s.pc.toNat + if a = b then 0 else 2) % 4096 := by
  simp only [skipIf_pc_toNat, bne_iff_ne, ne_eq, ite_not]

/-- Settles O16: each of the four is a skip on one comparison, for equality or against it. -/
theorem skipsCompareRegisters : Obligations.SkipsCompareRegisters := fun _ _ _ s =>
  ⟨⟨_, rfl, skipIf_sameBut _ s, skipIf_beq_pc_toNat _ _ s⟩, ⟨_, rfl, skipIf_sameBut _ s, skipIf_bne_pc_toNat _ _ s⟩,
    ⟨_, rfl, skipIf_sameBut _ s, skipIf_beq_pc_toNat _ _ s⟩, ⟨_, rfl, skipIf_sameBut _ s, skipIf_bne_pc_toNat _ _ s⟩⟩

/-! ### CALL and RET (R101, R103) -/

theorem pushReturn_stack_getElem {s : State} (room : s.sp.val < 16) (k : Fin 16) :
    (pushReturn s room).stack[k.val] = if k.val = s.sp.val then s.pc else s.stack[k.val] := by
  simp only [pushReturn_stack, Vector.getElem_set, eq_comm]

theorem topOfStack_eq {s : State} {k : Fin 16} (h : k.val + 1 = s.sp.val) : topOfStack s = s.stack[k.val] := by
  simp only [topOfStack, ← h, Nat.add_sub_cancel]

theorem jump_pushReturn_sameBut {s : State} (room : s.sp.val < 16) (a : Addr) :
    SameBut [.pc, .sp, .stack] s (setPc (pushReturn s room) a) :=
  ((pushReturn_sameBut s room).mono (by simp)).trans ((setPc_sameBut _ a).mono (by simp))

theorem jump_popReturn_sameBut (s : State) (a : Addr) : SameBut [.pc, .sp] s (setPc (popReturn s) a) :=
  ((popReturn_sameBut s).mono (by simp)).trans ((setPc_sameBut _ a).mono (by simp))

/-- R223: under the `fault` policy an exception is a next state that has the latch set and differs in nothing else. -/
theorem takeException_of_faultPolicy {s : State} (e : FaultLatch) (h : s.config.stackFault = .fault) :
    takeException e s = .next (setFault s e) := by
  obtain ⟨_, hr⟩ | ⟨hopen, _⟩ := takeException_cases e s
  · exact hr
  · exact absurd h hopen

/-- Settles O13: with room CALL is a push and a jump, on a full stack the entry of an exception. -/
theorem callPushesOrOverflows : Obligations.CallPushesOrOverflows := by
  refine fun nnn s => ⟨fun room => ?_, fun hfull hpolicy => ?_⟩
  · exact ⟨_, execCall_of_room nnn room, rfl, rfl, pushReturn_stack_getElem room, jump_pushReturn_sameBut room nnn⟩
  · exact ⟨_, (execCall_of_full nnn hfull).trans (takeException_of_faultPolicy _ hpolicy), rfl, setFault_sameBut s _⟩

/-- Settles O14: RET is a pop and a jump to the entry that was on top, on an empty stack the entry of an exception. -/
theorem retPopsOrUnderflows : Obligations.RetPopsOrUnderflows := by
  refine fun s => ⟨fun hpos => ?_, fun hempty hpolicy => ?_⟩
  · have hsp : (popReturn s).sp.val + 1 = s.sp.val := Nat.sub_add_cancel hpos
    exact ⟨_, execRet_of_nonempty hpos.ne', hsp, fun _ hk => topOfStack_eq hk, jump_popReturn_sameBut s _⟩
  · exact ⟨_, (execRet_of_empty hempty).trans (takeException_of_faultPolicy _ hpolicy), rfl, setFault_sameBut s _⟩

/-! ### A call and its return as two steps (R190, R198) -/

/-- A step whose instruction answers `t` answers `t` with `sound_on` sampled. -/
theorem step_of_exec {s t : State} {i : Instr} (hgate : gateOpen s = true)
    (hdecode : decode s.config.strictLowNibble (fetchWord s) = .instr i) (h : exec i (advancePc s) = .next t) :
    step s = .next (sampleSound t) := by
  rw [step_of_gateOpen hgate, cycle_of_decode hdecode, h, bindNext_next]

/-- What an instruction that writes PC leaves unchanged, its step leaves unchanged but for the sample. -/
theorem SameBut.of_step {ps : List Part} {s t : State} (h : SameBut ps (advancePc s) t) (hpc : .pc ∈ ps) :
    SameBut (.soundOn :: ps) s (sampleSound t) :=
  (((advancePc_sameBut s).mono (by simpa using hpc)).trans (h.mono fun _ => List.mem_cons_of_mem _)).trans
    ((sampleSound_sameBut t).mono (by simp))

/-- A part that has its old value again need not be listed. -/
theorem SameBut.of_cons {p : Part} {ps : List Part} {s t : State} (h : SameBut (p :: ps) s t) (hp : samePart s t p) :
    SameBut ps s t := by
  intro q hq
  by_cases hqp : q = p
  · exact hqp ▸ hp
  · exact h q (by simp [hqp, hq])

/-- Where the step over CALL leads. -/
def afterCall (s : State) (room : s.sp.val < 16) (a : Addr) : State := sampleSound (setPc (pushReturn (advancePc s) room) a)

/-- Where the step over RET leads. -/
def afterRet (s : State) : State := sampleSound (setPc (popReturn (advancePc s)) (topOfStack (advancePc s)))

section
variable {s : State}

theorem step_call {a : Addr} (hgate : gateOpen s = true) (room : s.sp.val < 16)
    (hcall : decode s.config.strictLowNibble (fetchWord s) = .instr (.call a)) : step s = .next (afterCall s room a) :=
  step_of_exec hgate hcall (execCall_of_room (s := advancePc s) a room)

theorem step_ret (hgate : gateOpen s = true) (hsp : s.sp.val ≠ 0)
    (hret : decode s.config.strictLowNibble (fetchWord s) = .instr .ret) : step s = .next (afterRet s) :=
  step_of_exec hgate hret (execRet_of_nonempty hsp)

theorem afterRet_sp_afterCall (room : s.sp.val < 16) (a : Addr) : (afterRet (afterCall s room a)).sp = s.sp := rfl

theorem afterRet_stack_afterCall (room : s.sp.val < 16) (a : Addr) (k : Fin 16) :
    (afterRet (afterCall s room a)).stack[k.val] = if k.val = s.sp.val then s.pc + 2#12 else s.stack[k.val] :=
  pushReturn_stack_getElem (s := advancePc s) room k

/-- The return finds on top what the call pushed: the address behind the call. -/
theorem afterRet_pc_afterCall (room : s.sp.val < 16) (a : Addr) : (afterRet (afterCall s room a)).pc = s.pc + 2#12 :=
  calc topOfStack (advancePc (afterCall s room a))
    _ = (afterCall s room a).stack[s.sp.val] := topOfStack_eq (k := ⟨s.sp.val, room⟩) rfl
    _ = s.pc + 2#12 := (pushReturn_stack_getElem (s := advancePc s) room ⟨s.sp.val, room⟩).trans (if_pos rfl)

theorem afterRet_afterCall_sameBut (room : s.sp.val < 16) (a : Addr) :
    SameBut [.pc, .stack, .soundOn] s (afterRet (afterCall s room a)) := by
  have hcall : SameBut [.soundOn, .pc, .sp, .stack] s (afterCall s room a) :=
    (jump_pushReturn_sameBut (s := advancePc s) room a).of_step (by simp)
  have hret : SameBut [.soundOn, .pc, .sp] (afterCall s room a) (afterRet (afterCall s room a)) :=
    (jump_popReturn_sameBut (advancePc (afterCall s room a)) _).of_step (by simp)
  have hboth : SameBut [.sp, .pc, .stack, .soundOn] s (afterRet (afterCall s room a)) :=
    (hcall.mono (by simp)).trans (hret.mono (by simp))
  exact hboth.of_cons (afterRet_sp_afterCall room a)

end

/-- Settles O17: the call leaves the gate open, memory as it was and PC at `a`, so the next step runs the RET there, and it pops
the one entry the call pushed. -/
theorem callThenRetReturns : Obligations.CallThenRetReturns := by
  intro s a hfault hmode room hcall hret
  have hgate : gateOpen s = true := (gateOpen_iff s).mpr ⟨hfault, hmode⟩
  have hgate' : gateOpen (afterCall s room a) = true := (gateOpen_iff _).mpr ⟨hfault, hmode⟩
  have hpushed : (afterCall s room a).sp.val ≠ 0 := Nat.succ_ne_zero s.sp.val
  have hpc : (afterRet (afterCall s room a)).pc.toNat = (s.pc.toNat + 2) % 4096 :=
    (congrArg BitVec.toNat (afterRet_pc_afterCall room a)).trans (BitVec.toNat_add s.pc 2#12)
  exact ⟨_, _, step_call hgate room hcall, step_ret hgate' hpushed hret, rfl, hpc, afterRet_sp_afterCall room a,
    fun k hk => (afterRet_stack_afterCall room a k).trans (if_neg hk), afterRet_afterCall_sameBut room a⟩

end Sys2Proof.Machine

/-! Register loads and arithmetic (41_alu). First the instructions that end in one register write, then what the two writes of
a flag-writing instruction leave, then the result and the flag of each of the five as numbers. -/

namespace Sys2Proof.Machine

/-! ### One register written (R120 to R125) -/

theorem readReg_writeReg_self (s : State) (x : Reg) (b : Byte) : readReg (writeReg s x b) x = b := by
  rw [readReg_writeReg, if_pos rfl]

theorem writeReg_sameRegsBut_singleton (s : State) (x : Reg) (b : Byte) : SameRegsBut [x] s (writeReg s x b) :=
  writeReg_sameRegsBut List.mem_cons_self s b

/-- Settles O18: both loads are one write of V[x]. -/
theorem loadsSetRegister : Obligations.LoadsSetRegister := fun x _ _ s =>
  ⟨⟨_, rfl, readReg_writeReg_self s x _, writeReg_sameRegsBut_singleton s x _, writeReg_sameBut s x _⟩,
    ⟨_, rfl, readReg_writeReg_self s x _, writeReg_sameRegsBut_singleton s x _, writeReg_sameBut s x _⟩⟩

/-- Settles O19: the one write is of V[x], with the sum of two bytes. -/
theorem addImmediateWrapsWithoutFlag : Obligations.AddImmediateWrapsWithoutFlag := by
  intro x nn s
  refine ⟨writeReg s x (readReg s x + nn), rfl, ?_, writeReg_sameRegsBut_singleton s x _, writeReg_sameBut s x _⟩
  rw [readReg_writeReg_self, BitVec.toNat_add]

/-- Settles O20: each of the three is one write of V[x], of a word operation that acts bit by bit. -/
theorem logicIsBitwiseWithoutFlag : Obligations.LogicIsBitwiseWithoutFlag := by
  refine fun x y s => ⟨⟨_, rfl, writeReg_sameRegsBut_singleton s x _, writeReg_sameBut s x _, fun k _ => ?_⟩,
    ⟨_, rfl, writeReg_sameRegsBut_singleton s x _, writeReg_sameBut s x _, fun k _ => ?_⟩,
    ⟨_, rfl, writeReg_sameRegsBut_singleton s x _, writeReg_sameBut s x _, fun k _ => ?_⟩⟩
  · rw [readReg_writeReg_self, BitVec.getLsbD_or]
  · rw [readReg_writeReg_self, BitVec.getLsbD_and]
  · rw [readReg_writeReg_self, BitVec.getLsbD_xor]

/-! ### The result and the flag written (R21, R131) -/

/-- Where R131 gives a meaning, V[x] and VF keep the result and the flag; for x = 15 the later of the two writes stays. -/
theorem writeResultAndFlag_flagWritten {s : State} {x : Reg} (h : x = flagReg → s.config.vfDest ≠ .refuse)
    (result flag : Byte) : ∃ t, writeResultAndFlag s x result flag = .next t ∧ FlagWritten s t x result flag := by
  obtain ⟨hrefuse, hx, _⟩ | ⟨hlast, hr⟩ | ⟨hlast, _, hr⟩ := writeResultAndFlag_cases s x result flag
  · exact absurd hrefuse (h hx)
  · obtain ⟨hparts, hregs⟩ := writeResultAndFlag_frame hr
    refine ⟨_, hr, fun hx => ⟨?_, readReg_writeReg_self _ _ _⟩, fun _ => ?_, hregs, hparts⟩
    · rw [readReg_writeReg, if_neg hx, readReg_writeReg_self]
    · rw [readReg_writeReg_self, if_pos hlast]
  · obtain ⟨hparts, hregs⟩ := writeResultAndFlag_frame hr
    refine ⟨_, hr, fun hx => ⟨readReg_writeReg_self _ _ _, ?_⟩, fun hx => ?_, hregs, hparts⟩
    · rw [readReg_writeReg, if_neg hx.symm, readReg_writeReg_self]
    · rw [← hx, readReg_writeReg_self, if_neg hlast]

/-- With destination VF the value that stays is the policy's. -/
theorem writeResultAndFlag_flagReg {s : State} (h : s.config.vfDest ≠ .refuse) (result flag : Byte) :
    ∃ t, writeResultAndFlag s flagReg result flag = .next t ∧
      readReg t flagReg = (if s.config.vfDest = .flagLast then flag else result) ∧
      SameRegsBut [flagReg] s t ∧ SameBut [.v] s t := by
  obtain ⟨t, ht, _, hvf, hregs, hparts⟩ := writeResultAndFlag_flagWritten (fun _ => h) result flag
  exact ⟨t, ht, hvf rfl, fun z hz => hregs z (by simpa using hz), hparts⟩

theorem writeResultAndFlag_vfDestination (s : State) (result flag : Byte) :
    VfDestinationOutcome s (writeResultAndFlag s flagReg result flag) result flag := by
  refine ⟨fun h => ?_, fun h => ?_, fun h => ?_⟩
  · simpa [h] using writeResultAndFlag_flagReg (s := s) (by simp [h]) result flag
  · simpa [h] using writeResultAndFlag_flagReg (s := s) (by simp [h]) result flag
  · simp [writeResultAndFlag, h]

/-! ### Results and flags as numbers (R126 to R130, R132) -/

theorem byte_sub_eq_ofNat (a b : Byte) : a - b = BitVec.ofNat 8 (256 + a.toNat - b.toNat) := by
  bv_omega

theorem byte_ushiftRight_one (v : Byte) : v >>> 1 = BitVec.ofNat 8 (v.toNat / 2) := by
  bv_omega

theorem byte_shiftLeft_one (v : Byte) : v <<< 1 = BitVec.ofNat 8 (2 * v.toNat) := by
  bv_omega

theorem flagByte_decide (p : Prop) [Decidable p] : flagByte (decide p) = if p then 1 else 0 := by
  simp [flagByte]

theorem shiftedOutRight_eq_ofNat (v : Byte) : shiftedOutRight v = BitVec.ofNat 8 (v.toNat % 2) := by
  apply BitVec.eq_of_toNat_eq
  rw [shiftedOutRight, BitVec.toNat_and, BitVec.toNat_ofNat, BitVec.toNat_ofNat, Nat.and_one_is_mod]
  omega

theorem shiftedOutLeft_eq_ofNat (v : Byte) : shiftedOutLeft v = BitVec.ofNat 8 (v.toNat / 128) := by
  have hbit : (v &&& 0x80#8) >>> 7 = v >>> 7 &&& 1#8 := BitVec.ushiftRight_and_distrib v 0x80#8 7
  apply BitVec.eq_of_toNat_eq
  rw [shiftedOutLeft, hbit, BitVec.toNat_and, BitVec.toNat_ushiftRight, BitVec.toNat_ofNat, BitVec.toNat_ofNat,
    Nat.and_one_is_mod, Nat.shiftRight_eq_div_pow]
  omega

theorem shiftOperand_eq_shiftValue (s : State) (x y : Reg) : shiftOperand s x y = ShiftValue s x y := by
  cases h : s.config.shiftSource <;> simp [shiftOperand, ShiftValue, h]

/-! ### The five flag-writing instructions -/

section
variable (x y : Reg) (s : State)

theorem exec_addReg : exec (.addReg x y) s =
    writeResultAndFlag s x (BitVec.ofNat 8 ((readReg s x).toNat + (readReg s y).toNat))
      (if 255 < (readReg s x).toNat + (readReg s y).toNat then 1 else 0) := by
  rw [← BitVec.add_def, ← flagByte_decide]; rfl

theorem exec_sub : exec (.sub x y) s =
    writeResultAndFlag s x (BitVec.ofNat 8 (256 + (readReg s x).toNat - (readReg s y).toNat))
      (if (readReg s y).toNat ≤ (readReg s x).toNat then 1 else 0) := by
  rw [← byte_sub_eq_ofNat, ← flagByte_decide]; rfl

theorem exec_subn : exec (.subn x y) s =
    writeResultAndFlag s x (BitVec.ofNat 8 (256 + (readReg s y).toNat - (readReg s x).toNat))
      (if (readReg s x).toNat ≤ (readReg s y).toNat then 1 else 0) := by
  rw [← byte_sub_eq_ofNat, ← flagByte_decide]; rfl

theorem exec_shr : exec (.shr x y) s =
    writeResultAndFlag s x (BitVec.ofNat 8 ((ShiftValue s x y).toNat / 2))
      (BitVec.ofNat 8 ((ShiftValue s x y).toNat % 2)) := by
  rw [← byte_ushiftRight_one, ← shiftedOutRight_eq_ofNat, ← shiftOperand_eq_shiftValue]; rfl

theorem exec_shl : exec (.shl x y) s =
    writeResultAndFlag s x (BitVec.ofNat 8 (2 * (ShiftValue s x y).toNat))
      (BitVec.ofNat 8 ((ShiftValue s x y).toNat / 128)) := by
  rw [← byte_shiftLeft_one, ← shiftedOutLeft_eq_ofNat, ← shiftOperand_eq_shiftValue]; rfl

end

/-- Settles O21: ADD is the two writes, of the sum and of the carry. -/
theorem addSetsSumAndCarry : Obligations.AddSetsSumAndCarry := fun x y s h =>
  exec_addReg x y s ▸ writeResultAndFlag_flagWritten h _ _

/-- Settles O22: SUB is the two writes, of the difference and of the not-borrow. -/
theorem subSetsDifferenceAndNotBorrow : Obligations.SubSetsDifferenceAndNotBorrow := fun x y s h =>
  exec_sub x y s ▸ writeResultAndFlag_flagWritten h _ _

/-- Settles O23: SUBN is the two writes, of the reverse difference and of its not-borrow. -/
theorem subnSetsReverseDifferenceAndNotBorrow : Obligations.SubnSetsReverseDifferenceAndNotBorrow := fun x y s h =>
  exec_subn x y s ▸ writeResultAndFlag_flagWritten h _ _

/-- Settles O24: SHR is the two writes, of the half and of the bit shifted out. -/
theorem shrHalvesAndKeepsLowBit : Obligations.ShrHalvesAndKeepsLowBit := fun x y s h =>
  exec_shr x y s ▸ writeResultAndFlag_flagWritten h _ _

/-- Settles O25: SHL is the two writes, of the double and of the bit shifted out. -/
theorem shlDoublesAndKeepsHighBit : Obligations.ShlDoublesAndKeepsHighBit := fun x y s h =>
  exec_shl x y s ▸ writeResultAndFlag_flagWritten h _ _

/-- Settles O26: each of the five ends in the same two writes, with destination VF. -/
theorem vfDestinationFollowsPolicy : Obligations.VfDestinationFollowsPolicy := fun y s =>
  ⟨exec_addReg flagReg y s ▸ writeResultAndFlag_vfDestination s _ _,
    exec_sub flagReg y s ▸ writeResultAndFlag_vfDestination s _ _,
    exec_subn flagReg y s ▸ writeResultAndFlag_vfDestination s _ _,
    exec_shr flagReg y s ▸ writeResultAndFlag_vfDestination s _ _,
    exec_shl flagReg y s ▸ writeResultAndFlag_vfDestination s _ _⟩

end Sys2Proof.Machine

/-! Index register, random, decimal and bulk transfer (42_index_random_memory). First the instructions that write I or draw a
byte, then the two stores, by what consecutive writes from `I` leave at each address, then the bulk load and the round trip. -/

namespace Sys2Proof.Machine

/-! ### The index register and the random byte (R140 to R143) -/

/-- No glyph address wraps: the largest is 0x54B. -/
theorem glyphAddress_toNat (b : Byte) : (glyphAddress b).toNat = 0x050 + b.toNat * 5 := by
  unfold glyphAddress
  bv_omega

/-- Settles O27: each of the three is one write of I. -/
theorem indexRegisterWrites : Obligations.IndexRegisterWrites := fun x _ s =>
  ⟨⟨_, rfl, rfl, setI_sameBut s _⟩,
    ⟨_, rfl, addr_add_zeroExtend_toNat s.i (readReg s x), setI_sameBut s _⟩,
    ⟨_, rfl, glyphAddress_toNat (readReg s x), setI_sameBut s _⟩⟩

/-- Settles O28: RND is one write of V[x], then the count of one transaction; the byte is read before the count moves. -/
theorem rndMasksOneFreeByte : Obligations.RndMasksOneFreeByte := by
  intro x nn s
  refine ⟨countDraw (writeReg s x (nextRandom s &&& nn)), rfl, ?_, rfl, writeReg_sameRegsBut_singleton s x _, ?_⟩
  · rw [readReg_countDraw, readReg_writeReg_self, nextRandom]
  · exact ((writeReg_sameBut s x _).mono (by simp)).trans ((countDraw_sameBut _).mono (by simp))

/-! ### The stores (R144 to R146) -/

/-- The digits of a byte lie at `I`, `I + 1`, `I + 2` once they are written from `I`, and each fits a byte. -/
theorem readByte_writeBytes_decimalDigits_toNat (s : State) (b : Byte) {k : Nat} (hk : k < 3) :
    (readByte (writeBytes s s.i (decimalDigits b)) (dataAddress s k)).toNat = b.toNat / 10 ^ (2 - k) % 10 := by
  have hlt : k < (decimalDigits b).length := hk
  have hdigit : b.toNat / 10 ^ (2 - k) % 10 < 10 := Nat.mod_lt _ (by omega)
  rw [readByte_writeBytes_dataAddress s (by simp [decimalDigits]) hlt, decimalDigits_getElem, BitVec.toNat_ofNat,
    Nat.mod_eq_of_lt (by omega)]

/-- Settles O29: LD B is the three digits written from `I`. -/
theorem bcdStoresThreeDigits : Obligations.BcdStoresThreeDigits := by
  intro x s
  have hundreds : (readReg s x).toNat / 100 < 10 := by omega
  refine ⟨_, rfl, ?_, ?_, ?_, fun a hout => ?_, writeBytes_sameBut s _ _⟩
  · exact (readByte_writeBytes_decimalDigits_toNat s _ (by omega)).trans (Nat.mod_eq_of_lt hundreds)
  · exact readByte_writeBytes_decimalDigits_toNat s _ (by omega)
  · simpa using readByte_writeBytes_decimalDigits_toNat s (readReg s x) (k := 2) (by omega)
  · exact readByte_writeBytes_outside s (by simp [decimalDigits]) fun k hk => (hout k hk).symm

/-- Settles O30: LD [I], Vx is the registers up to x written from `I`. -/
theorem bulkStoreWritesRegisters : Obligations.BulkStoreWritesRegisters := by
  intro x s
  have hlen := storedRegs_length x s
  refine ⟨_, rfl, fun k hk => ?_, fun a hout => ?_, writeBytes_sameBut s _ _⟩
  · have hle : k.val ≤ x.val := hk
    rw [readByte_writeBytes_dataAddress s (by omega) (by omega), storedRegs_getElem, Fin.ofNat_val_eq_self]
  · refine readByte_writeBytes_outside s (by omega) fun k hk => ?_
    have hle : k ≤ x.val := by omega
    exact (hout ⟨k, by omega⟩ hle).symm

/-! ### The bulk load and the round trip (R147) -/

/-- Settles O31: LD Vx, [I] writes the registers up to x, each with the byte at its own offset from `I`. -/
theorem bulkLoadReadsRegisters : Obligations.BulkLoadReadsRegisters := by
  intro x s
  obtain ⟨hread, hframe⟩ := foldl_writeReg (regsThrough x) (fun k => readByte s (dataAddress s k.val)) s
  refine ⟨_, rfl, fun k hk => ?_, fun k hk => ?_, hframe⟩
  · rw [hread, if_pos ((mem_regsThrough x k).mpr hk)]
  · rw [hread, if_neg ((mem_regsThrough x k).not.mpr (not_le.mpr hk))]

/-- Settles O32: the store leaves `I`, so the load reads the bytes where they were stored. -/
theorem bulkStoreThenLoadRestores : Obligations.BulkStoreThenLoadRestores := by
  intro x s between
  obtain ⟨t, hstore, hstored, _, hsame⟩ := bulkStoreWritesRegisters x s
  obtain ⟨u, hload, hloaded, _, hsame'⟩ := bulkLoadReadsRegisters x { t with v := between }
  have hi : t.i = s.i := hsame .i (by simp)
  have hi' : u.i = t.i := hsame' .i (by simp)
  refine ⟨t, u, hstore, hload, hi'.trans hi, fun k hk => ?_⟩
  have haddr : dataAddress { t with v := between } k.val = dataAddress s k.val :=
    congrArg (· + BitVec.ofNat 12 k.val) hi
  calc readReg u k
    _ = readByte t (dataAddress { t with v := between } k.val) := hloaded k hk
    _ = readByte t (dataAddress s k.val) := by rw [haddr]
    _ = readReg s k := hstored k hk

end Sys2Proof.Machine

/-! The Display (43_display). First the pixels one row of a sprite toggles, then those of the whole sprite, as a list without
repeats and as the pixels R163 says it covers; then DRW by that one list, and the second DRW over the same pixels. -/

namespace Sys2Proof.Machine

/-! ### One row of a sprite (R163) -/

theorem wrapPixel_eq_iff (x y : Nat) (p : Pixel) : wrapPixel x y = p ↔ p.1.val = x % 64 ∧ p.2.val = y % 32 := by
  simp [wrapPixel, Prod.ext_iff, Fin.ext_iff, eq_comm]

/-- The columns of a row byte lie less than 64 apart, so wrapping keeps them apart. -/
theorem rowPixels_nodup (x0 y : Nat) (row : Byte) : (rowPixels x0 y row).Nodup := by
  refine List.Nodup.map_on (fun c hc d hd heq => ?_) (List.nodup_range.filter _)
  obtain ⟨hc, -⟩ := List.mem_filter.mp hc
  obtain ⟨hd, -⟩ := List.mem_filter.mp hd
  obtain ⟨hcol, -⟩ := (wrapPixel_eq_iff _ _ _).mp heq
  have hwrap : (x0 + d) % 64 = (x0 + c) % 64 := hcol
  rw [List.mem_range] at hc hd
  omega

theorem mem_rowPixels {x0 y : Nat} {row : Byte} {p : Pixel} : p ∈ rowPixels x0 y row ↔
    ∃ c < 8, row.getLsbD (7 - c) = true ∧ p.1.val = (x0 + c) % 64 ∧ p.2.val = y % 32 := by
  simp [rowPixels, wrapPixel_eq_iff, and_assoc]

/-! ### The whole sprite (R163) -/

theorem mem_spritePixels {x0 y0 : Nat} {rows : List Byte} {p : Pixel} : p ∈ spritePixels x0 y0 rows ↔
    ∃ (r : Nat) (h : r < rows.length), p ∈ rowPixels x0 (y0 + r) rows[r] := by
  induction rows generalizing y0 with
  | nil => simp [spritePixels]
  | cons row rows ih =>
    rw [spritePixels, List.mem_append, ih]
    constructor
    · rintro (hp | ⟨r, h, hp⟩)
      · exact ⟨0, by simp, hp⟩
      · exact ⟨r + 1, by simpa using h, by simpa [Nat.add_assoc, Nat.add_comm 1] using hp⟩
    · rintro ⟨_ | r, h, hp⟩
      · exact .inl hp
      · exact .inr ⟨r, by simpa using h, by simpa [Nat.add_assoc, Nat.add_comm 1] using hp⟩

/-- Up to 32 rows lie on different lines of the screen, so no row toggles a pixel of another. -/
theorem spritePixels_nodup (x0 y0 : Nat) {rows : List Byte} (hlen : rows.length ≤ 32) :
    (spritePixels x0 y0 rows).Nodup := by
  induction rows generalizing y0 with
  | nil => exact List.nodup_nil
  | cons row rows ih =>
    rw [List.length_cons] at hlen
    refine (rowPixels_nodup x0 y0 row).append (ih (y0 + 1) (by omega)) fun p hfirst hrest => ?_
    obtain ⟨r, hr, hrow⟩ := mem_spritePixels.mp hrest
    obtain ⟨_, _, _, _, hline⟩ := mem_rowPixels.mp hfirst
    obtain ⟨_, _, _, _, hline'⟩ := mem_rowPixels.mp hrow
    omega

theorem spriteBytes_length (s : State) (n : Nibble) : (spriteBytes s n).length = n.toNat := by
  simp [spriteBytes]

theorem spriteBytes_getElem (s : State) (n : Nibble) (r : Nat) (h : r < (spriteBytes s n).length) :
    (spriteBytes s n)[r] = readByte s (s.i + BitVec.ofNat 12 r) := by
  simp [spriteBytes, dataAddress]

/-- The toggle transactions of a DRW are for the pixels its sprite covers. -/
theorem mem_drawTransactions {x y : Reg} {n : Nibble} {s : State} {p : Pixel} :
    p ∈ drawTransactions s x y n ↔ SpriteCovers s x y n p := by
  simp only [drawTransactions, mem_spritePixels, mem_rowPixels, spriteBytes_getElem, spriteBytes_length]
  exact ⟨fun ⟨r, hr, c, covered⟩ => ⟨r, c, hr, covered⟩, fun ⟨r, c, hr, covered⟩ => ⟨r, hr, c, covered⟩⟩

/-- Settles O35: a sprite has at most 15 rows. -/
theorem drawTogglesDistinctPixels : Obligations.DrawTogglesDistinctPixels := fun _ _ n s =>
  spritePixels_nodup _ _ (by have := n.isLt; rw [spriteBytes_length]; omega)

/-! ### DRW (R163, R164) -/

/-- Settles O36: the toggles of pairwise distinct pixels, and the flag of what they answered. -/
theorem drawInvertsCoveredPixels : Obligations.DrawInvertsCoveredPixels := by
  intro x y n s
  obtain ⟨hpixels, hcollision⟩ := toggleAll_spec s.fb _ (drawTogglesDistinctPixels x y n s)
  simp only [mem_drawTransactions] at hcollision
  refine ⟨_, rfl, fun p hp => ?_, fun p hp => ?_, fun h => ?_, fun h => ?_,
    exec_sameRegsBut (i := .drw x y n) rfl, exec_sameBut (i := .drw x y n) rfl⟩
  · exact (hpixels p).trans (if_pos (mem_drawTransactions.mpr hp))
  · exact (hpixels p).trans (if_neg (mem_drawTransactions.not.mpr hp))
  · rw [readReg_writeReg_self, hcollision.mpr h]; rfl
  · rw [readReg_writeReg_self, Bool.eq_false_iff.mpr (hcollision.not.mpr h)]; rfl

/-- What a sprite covers depends on its two coordinates, on `I` and on memory; a DRW changes none of them but VF. -/
theorem spriteCovers_congr {x y : Reg} {s t : State} (hx : x ≠ flagReg) (hy : y ≠ flagReg)
    (hregs : SameRegsBut [flagReg] s t) (hsame : SameBut [.v, .fb] s t) (n : Nibble) (p : Pixel) :
    SpriteCovers t x y n p ↔ SpriteCovers s x y n p := by
  have hxv : readReg t x = readReg s x := hregs x (by simpa using hx)
  have hyv : readReg t y = readReg s y := hregs y (by simpa using hy)
  have hi : t.i = s.i := hsame .i (by simp)
  have hmem : ∀ a, readByte t a = readByte s a := hsame .mem (by simp)
  simp only [SpriteCovers, hxv, hyv, hi, hmem]

/-- Settles O37: the second DRW covers the same pixels, and finds each of them inverted. -/
theorem drawTwiceRestoresPixels : Obligations.DrawTwiceRestoresPixels := by
  intro x y n s hx hy
  obtain ⟨t, hdraw, hinverted, hkept, -, -, hregs, hsame⟩ := drawInvertsCoveredPixels x y n s
  obtain ⟨u, hdraw', hinverted', hkept', hcollision, hclear, -, -⟩ := drawInvertsCoveredPixels x y n t
  simp only [spriteCovers_congr hx hy hregs hsame n] at hinverted' hkept' hcollision hclear
  have hfound : (∃ p, SpriteCovers s x y n p ∧ pixelOn t.fb p = true) ↔
      ∃ p, SpriteCovers s x y n p ∧ pixelOn s.fb p = false :=
    exists_congr fun p => and_congr_right fun hp => by rw [hinverted p hp, Bool.not_eq_true']
  refine ⟨t, u, hdraw, hdraw', fun p => ?_, fun h => ?_, fun h => hcollision (hfound.mpr h)⟩
  · by_cases hp : SpriteCovers s x y n p
    · rw [hinverted' p hp, hinverted p hp, Bool.not_not]
    · rw [hkept' p hp, hkept p hp]
  · by_contra hnone
    rw [hclear (hfound.not.mpr hnone)] at h
    exact absurd h (by decide)

/-! ### CLS (R162) -/

/-- Settles O34: the cleared framebuffer has no bit set, and CLS writes nothing else. -/
theorem clsClearsEveryPixel : Obligations.ClsClearsEveryPixel := fun s =>
  ⟨_, rfl, fun p => by simp [pixelOn, displayClear], exec_sameBut (i := .cls) rfl⟩

end Sys2Proof.Machine

/-! Keys and timers (44_input_timers): the skips on a key level, the key-wait with what can be read of it, and the three timer
moves. -/

namespace Sys2Proof.Machine

/-! ### The key skips (R172, R173) -/

/-- Where the policy gives the code a meaning, the skips act on whether its key counts as down. -/
theorem keyAnswer_eq_some {s : State} {b : Byte} (h : s.config.keyRange = .refuse → b.toNat ≤ 15) :
    ∃ p, keyAnswer s b = some p ∧ (p = true ↔ KeyCountsDown s b) := by
  by_cases hb : b.toNat ≤ 15
  · exact ⟨_, keyAnswer_le hb, by simp [KeyCountsDown, keyCode_eq, hb]⟩
  · obtain ⟨hpolicy, hr⟩ | ⟨hpolicy, hr⟩ | ⟨hrefuse, _⟩ := keyAnswer_gt (s := s) (Nat.lt_of_not_le hb)
    · exact ⟨_, hr, by simp [KeyCountsDown, hb, hpolicy]⟩
    · exact ⟨_, hr, by simp [KeyCountsDown, keyCode_eq, hpolicy]⟩
    · exact absurd (h hrefuse) hb

theorem execSkp_of_answer {x : Reg} {s : State} {p : Bool} (h : keyAnswer s (readReg s x) = some p) :
    execSkp x s = .next (skipIf p s) := by
  rw [execSkp, h]

theorem execSknp_of_answer {x : Reg} {s : State} {p : Bool} (h : keyAnswer s (readReg s x) = some p) :
    execSknp x s = .next (skipIf (!p) s) := by
  rw [execSknp, h]

/-- Settles O38: the two instructions are the skip on the one answer and on its negation. -/
theorem keySkipsFollowKeyLevel : Obligations.KeySkipsFollowKeyLevel := by
  intro x s hmeaning
  obtain ⟨p, hanswer, hdown⟩ := keyAnswer_eq_some hmeaning
  refine ⟨_, _, execSkp_of_answer hanswer, execSknp_of_answer hanswer, skipIf_sameBut p s, skipIf_sameBut (!p) s, ?_⟩
  rw [← hdown]
  cases p with
  | true => exact ⟨fun _ => ⟨skipIf_pc_toNat true s, rfl⟩, fun hup => absurd rfl hup⟩
  | false => exact ⟨nofun, fun _ => ⟨rfl, skipIf_pc_toNat true s⟩⟩

theorem keyAnswer_eq_none {s : State} {b : Byte} (hrefuse : s.config.keyRange = .refuse) (hb : 15 < b.toNat) :
    keyAnswer s b = none := by
  obtain ⟨hpolicy, _⟩ | ⟨hpolicy, _⟩ | ⟨_, hr⟩ := keyAnswer_gt (s := s) hb
  · simp [hrefuse] at hpolicy
  · simp [hrefuse] at hpolicy
  · exact hr

/-- Settles O39: both skips refuse where there is no answer to act on. -/
theorem keyCodeAboveFifteenRefusedByPolicy : Obligations.KeyCodeAboveFifteenRefusedByPolicy := by
  intro x s hrefuse hcode
  have hnone : keyAnswer s (readReg s x) = none := keyAnswer_eq_none hrefuse hcode
  have hskp : execSkp x s = .refused .keyOutOfRange := by rw [execSkp, hnone]
  have hsknp : execSknp x s = .refused .keyOutOfRange := by rw [execSknp, hnone]
  exact ⟨hskp, hsknp⟩

/-! ### The key-wait (R31, R33, R174) -/

theorem keyWaitArmed_iff (s : State) : keyWaitArmed s = true ↔ ∃ x, s.mode = .awaitingKey x := by
  cases hm : s.mode <;> simp [keyWaitArmed, hm]

theorem keyWaitArmed_eq_false_iff (s : State) : keyWaitArmed s = false ↔ s.mode = .running := by
  cases hm : s.mode <;> simp [keyWaitArmed, hm]

theorem schedState_running_iff (s : State) : schedState s = .running ↔ s.userPaused = false ∧ s.mode = .running := by
  simp [schedState, keyWaitArmed_eq_false_iff]

/-- The scheduler has two states, so PAUSED is the negation of RUNNING. -/
theorem schedState_paused_iff (s : State) : schedState s = .paused ↔ s.userPaused = true ∨ s.mode ≠ .running := by
  have hnot : schedState s = .paused ↔ ¬ schedState s = .running := by cases schedState s <;> simp
  rw [hnot, schedState_running_iff, not_and_or, Bool.not_eq_false]

theorem gateOpen_of_awaitingKey {s : State} {x : Reg} (h : s.mode = .awaitingKey x) : gateOpen s = false := by
  rw [Bool.eq_false_iff, ne_eq, gateOpen_iff, h]
  simp

/-- Settles O40: LD Vx,K is one write of the mode, and the readings follow from the mode it leaves. -/
theorem keyWaitIsEntered : Obligations.KeyWaitIsEntered :=
  ⟨fun s => ⟨keyWaitArmed_iff s, schedState_running_iff s, schedState_paused_iff s, gateOpen_iff s⟩,
    fun x s => ⟨_, rfl, rfl, setMode_sameBut s (.awaitingKey x), (keyWaitArmed_iff _).mpr ⟨x, rfl⟩,
      (schedState_paused_iff _).mpr (.inr nofun), gateOpen_of_awaitingKey (x := x) rfl⟩⟩

/-! ### The timer moves (R175 to R177) -/

/-- Settles O41: each of the three is one write, of a register or of a timer. -/
theorem timerMoves : Obligations.TimerMoves := fun x s =>
  ⟨⟨_, rfl, readReg_writeReg_self s x s.dt, writeReg_sameRegsBut_singleton s x s.dt, writeReg_sameBut s x s.dt⟩,
    ⟨_, rfl, rfl, setDt_sameBut s _⟩, ⟨_, rfl, rfl, setSt_sameBut s _⟩⟩

end Sys2Proof.Machine

/-! Operations between cycles (45_cycle_scheduler R191, R195, R198, R228). First what a closed gate leaves for the host's
operations to move, with the key-wait as the case at hand; then how a tick is put together from its slots and its boundaries. -/

namespace Sys2Proof.Machine

/-! ### No cycle runs behind a closed gate (R191, R195) -/

theorem slot_of_running {s : State} (h : running s = true) : slot s = cycle s := if_pos h

theorem slot_of_not_running {s : State} (h : running s = false) : slot s = .next s := by
  simp [slot, h]

theorem tickTimers_of_running {s : State} (h : running s = true) : tickTimers s = decrementTimers s := if_pos h

theorem tickTimers_of_not_running {s : State} (h : running s = false) : tickTimers s = s := by
  simp [tickTimers, h]

theorem running_of_gateClosed {s : State} (h : gateOpen s = false) : running s = false := by
  simp [running, h]

theorem step_of_gateClosed {s : State} (h : gateOpen s = false) : step s = .next (sampleSound s) := by
  simp [step, hostStep, gatedCycle, h]

theorem gateOpen_congr {s t : State} (hfault : t.fault = s.fault) (hmode : t.mode = s.mode) : gateOpen t = gateOpen s := by
  simp only [gateOpen, halted, keyWaitArmed, hfault, hmode]

/-! ### Key presses (R199, R171) -/

theorem keyPress_of_halted {s : State} (k : Key) (h : s.fault ≠ .none) : keyPress k s = s := by
  cases hf : s.fault with
  | none => exact absurd hf h
  | stackOverflow | stackUnderflow => simp [keyPress, hf]

theorem keyDown_of_held {s : State} {k : Key} (h : keyPressed s k = true) : keyDown k s = s := if_pos h

theorem keyDown_of_up {s : State} {k : Key} (h : keyPressed s k = false) :
    keyDown k s = keyPress k (setKeyLevel s k true) := by
  simp [keyDown, h]

/-- Of a halted machine a press moves the level of the key alone. -/
theorem keyDown_sameBut_of_halted {s : State} (k : Key) (h : s.fault ≠ .none) : SameBut [.keys] s (keyDown k s) := by
  cases hlevel : keyPressed s k with
  | true =>
    rw [keyDown_of_held hlevel]
    exact SameBut.refl _ s
  | false =>
    rw [keyDown_of_up hlevel, keyPress_of_halted (s := setKeyLevel s k true) k h]
    exact setKeyLevel_sameBut s k true

/-! ### What the host can move behind a closed gate (R237) -/

/-- The parts that operations can write without opening the gate. -/
def gatelessParts : List Part := [.userPaused, .speed, .mem, .soundOn, .keys]

/-- The operation opens no closed gate of `s`: it is no reset, and no key press unless the machine is halted (R199, R224). -/
def LeavesGateClosed (s : State) (op : BoundaryOp) : Prop :=
  op ≠ .reset ∧ (s.fault = .none → ∀ k, op ≠ .keyPress k ∧ op ≠ .keyDown k)

theorem LeavesGateClosed.congr {s t : State} {op : BoundaryOp} (h : LeavesGateClosed s op) (hfault : t.fault = s.fault) :
    LeavesGateClosed t op := by
  rw [LeavesGateClosed, hfault]
  exact h

theorem pause_sameBut (s : State) : SameBut [.userPaused] s (pause s) := by
  intro p hp
  cases p with
  | userPaused => simp at hp
  | mem => exact fun _ => rfl
  | _ => rfl

theorem run_sameBut (s : State) : SameBut [.userPaused] s (run s) := by
  intro p hp
  cases p with
  | userPaused => simp at hp
  | mem => exact fun _ => rfl
  | _ => rfl

theorem acceptOrKeep_setSpeed_sameBut (n : Nat) (s : State) : SameBut [.speed] s (acceptOrKeep s (setSpeed n s)) := by
  unfold setSpeed
  split_ifs
  · intro p hp
    cases p with
    | speed => simp at hp
    | mem => exact fun _ => rfl
    | _ => rfl
  · exact SameBut.refl _ s

theorem acceptOrKeep_loadProgram_sameBut (bytes : List Byte) (s : State) :
    SameBut [.mem] s (acceptOrKeep s (loadProgram bytes s)) := by
  unfold loadProgram
  split_ifs
  · exact SameBut.refl _ s
  · exact SameBut.refl _ s
  · exact writeBytes_sameBut s _ bytes

theorem Answers.imp {P Q : State → Prop} {r : Result} (h : Answers P r) (himp : ∀ t, P t → Q t) : Answers Q r := by
  obtain ⟨t, rfl, ht⟩ := h
  exact answers_next (himp t ht)

/-- Of what an operation can do behind a closed gate, only a reset and an effective key press reach past `gatelessParts`. -/
theorem applyBoundary_gateClosed {s : State} {op : BoundaryOp} (hgate : gateOpen s = false) (hop : LeavesGateClosed s op) :
    Answers (SameBut gatelessParts s) (applyBoundary op s) := by
  obtain ⟨hreset, hkey⟩ := hop
  cases op with
  | reset => exact absurd rfl hreset
  | loadProgram bytes => exact answers_next ((acceptOrKeep_loadProgram_sameBut bytes s).mono (by simp [gatelessParts]))
  | setSpeed n => exact answers_next ((acceptOrKeep_setSpeed_sameBut n s).mono (by simp [gatelessParts]))
  | step =>
    rw [applyBoundary, step_of_gateClosed hgate]
    exact answers_next ((sampleSound_sameBut s).mono (by simp [gatelessParts]))
  | pause => exact answers_next ((pause_sameBut s).mono (by simp [gatelessParts]))
  | run => exact answers_next ((run_sameBut s).mono (by simp [gatelessParts]))
  | keyPress k =>
    have hhalted : s.fault ≠ .none := fun h => (hkey h k).1 rfl
    rw [applyBoundary, keyPress_of_halted k hhalted]
    exact answers_next (SameBut.refl _ s)
  | keyDown k =>
    have hhalted : s.fault ≠ .none := fun h => (hkey h k).2 rfl
    exact answers_next ((keyDown_sameBut_of_halted k hhalted).mono (by simp [gatelessParts]))
  | keyUp k => exact answers_next ((setKeyLevel_sameBut s k false).mono (by simp [gatelessParts]))

section
variable {s : State} (hgate : gateOpen s = false)
include hgate

/-- Neither the fault latch nor the mode is among the parts. -/
theorem gateClosed_of_sameBut {t : State} (h : SameBut gatelessParts s t) : gateOpen t = false :=
  (gateOpen_congr (h .fault (by simp [gatelessParts])) (h .mode (by simp [gatelessParts]))).trans hgate

theorem applyBoundary_keeps_gateless {op : BoundaryOp} (hop : LeavesGateClosed s op) {t : State}
    (h : SameBut gatelessParts s t) : Answers (SameBut gatelessParts s) (applyBoundary op t) :=
  (applyBoundary_gateClosed (gateClosed_of_sameBut hgate h) (hop.congr (h .fault (by simp [gatelessParts])))).imp
    fun _ => h.trans

theorem tickAmid_keeps_gateless {amid : List (List BoundaryOp)} (hops : ∀ op ∈ amid.flatten, LeavesGateClosed s op) {t : State}
    (h : SameBut gatelessParts s t) : Answers (SameBut gatelessParts s) (tickAmid amid t) := by
  refine tickAmid_answers (fun a ha => ?_) (fun op ho _ ha => applyBoundary_keeps_gateless hgate (hops op ho) ha)
    (fun a ha => ?_) h
  · rw [slot_of_not_running (running_of_gateClosed (gateClosed_of_sameBut hgate ha))]
    exact answers_next ha
  · rw [tickTimers_of_not_running (running_of_gateClosed (gateClosed_of_sameBut hgate ha))]
    exact ha.trans ((sampleSound_sameBut a).mono (by simp [gatelessParts]))

/-- Behind a closed gate, operations that leave it closed, those inside ticks included, complete and move no other part. -/
theorem runHost_gateClosed {ops : List HostOp} (hops : ∀ op ∈ ops, ∀ b ∈ op.boundaryOps, LeavesGateClosed s b) :
    Answers (SameBut gatelessParts s) (runHost ops s) := by
  refine runHost_answers (fun op ho t ht => ?_) (SameBut.refl _ s)
  cases op with
  | boundary b => exact applyBoundary_keeps_gateless hgate (hops _ ho b List.mem_cons_self) ht
  | tick amid => exact tickAmid_keeps_gateless hgate (hops _ ho) ht

end

/-- Settles O55: a key-wait closes the gate, and of the operations that open it only a reset and a key press can end the wait. -/
theorem keyWaitBlocksUntilKeyPress : Obligations.KeyWaitBlocksUntilKeyPress := by
  intro ops s x hwait hops
  refine runHost_gateClosed (gateOpen_of_awaitingKey hwait) fun op ho b hb => ?_
  obtain ⟨hreset, hkeys⟩ := hops op ho
  refine ⟨fun h => hreset (h ▸ hb), fun _ k => ?_⟩
  obtain ⟨hpress, hdown⟩ := hkeys k
  exact ⟨fun h => hpress (h ▸ hb), fun h => hdown (h ▸ hb)⟩

/-! ### The slots of a tick and its boundaries (R195, R228) -/

/-- A run that stops by name stops whatever was to follow. -/
theorem bindNext_of_ne_next {r : Result} (h : ∀ t, r ≠ .next t) (f : State → Result) : bindNext r f = r := by
  cases r with
  | next t => exact absurd rfl (h t)
  | fault _ | refused _ => rfl

theorem step_of_running {s : State} (h : running s = true) : step s = bindNext (slot s) fun t => .next (sampleSound t) := by
  obtain ⟨hfault, hmode, _⟩ := (running_iff s).mp h
  rw [slot_of_running h, step_of_gateOpen ((gateOpen_iff s).mpr ⟨hfault, hmode⟩)]

theorem runSlotsAmid_nil (k : Nat) (s : State) : runSlotsAmid k [] s = runSlots k s := by
  induction k generalizing s with
  | zero => rfl
  | succ k ih => exact congrArg (bindNext (slot s)) (funext ih)

theorem tickAmid_nil (s : State) : tickAmid [] s = tick s :=
  congrArg (bindNext · fun t => .next (sampleSound (tickTimers t))) (runSlotsAmid_nil s.speed s)

/-- A tick cut at one of its boundaries: the slots before it, the operations at it, the slot that sees them, the other slots. -/
theorem runSlotsAmid_append (before after : List (List BoundaryOp)) (ops : List BoundaryOp) (k : Nat) (s : State) :
    runSlotsAmid (before.length + 1 + k) (before ++ ops :: after) s =
      bindNext (runSlotsAmid before.length before s) fun t =>
        bindNext (runBoundary ops t) fun u => bindNext (slot u) (runSlotsAmid k after) := by
  induction before generalizing s with
  | nil =>
    have hcount : 0 + 1 + k = k + 1 := by omega
    rw [List.length_nil, hcount]
    rfl
  | cons first before ih =>
    have hcount : (first :: before).length + 1 + k = (before.length + 1 + k) + 1 := by
      rw [List.length_cons]
      omega
    rw [hcount, List.length_cons]
    simp only [runSlotsAmid, List.cons_append, List.headD_cons, List.tail_cons, bindNext_assoc, funext ih]

/-! ### Key levels at a boundary (R171) -/

theorem keyPressed_setKeyLevel_self (s : State) (k : Key) (down : Bool) : keyPressed (setKeyLevel s k down) k = down := by
  simp [keyPressed]

theorem keyPress_keys (k : Key) (s : State) : (keyPress k s).keys = s.keys := by
  unfold keyPress
  split <;> rfl

theorem keyPressed_keyDown_self (k : Key) (s : State) : keyPressed (keyDown k s) k = true := by
  cases hlevel : keyPressed s k with
  | true => rw [keyDown_of_held hlevel, hlevel]
  | false =>
    rw [keyDown_of_up hlevel, keyPressed, keyPress_keys]
    exact keyPressed_setKeyLevel_self s k true

/-! ### The end of a tick (R195, R196, R204) -/

theorem tickTimers_sameBut (s : State) : SameBut [.dt, .st] s (tickTimers s) := by
  unfold tickTimers
  split_ifs
  · exact decrementTimers_sameBut s
  · exact SameBut.refl _ s

/-- What the end of a tick makes of the state `s` behind its last slot and boundary: one decrement if RUNNING holds, and the
sample. -/
theorem tickEnd_spec (s : State) : SameBut [.dt, .st, .soundOn] s (sampleSound (tickTimers s)) ∧
    (running s = true → (sampleSound (tickTimers s)).dt.toNat = s.dt.toNat - 1 ∧
      (sampleSound (tickTimers s)).st.toNat = s.st.toNat - 1) ∧
    (running s = false → (sampleSound (tickTimers s)).dt = s.dt ∧ (sampleSound (tickTimers s)).st = s.st) ∧
    (sampleSound (tickTimers s)).soundOn = ((sampleSound (tickTimers s)).st != 0x00#8) := by
  refine ⟨?_, fun hrun => ?_, fun hidle => ?_, rfl⟩
  · exact ((tickTimers_sameBut s).mono (by simp)).trans ((sampleSound_sameBut _).mono (by simp))
  · rw [tickTimers_of_running hrun]
    exact ⟨countDown_toNat s.dt, countDown_toNat s.st⟩
  · rw [tickTimers_of_not_running hidle]
    exact ⟨rfl, rfl⟩

theorem tickAmid_of_slots {amid : List (List BoundaryOp)} {s u v : State} (hslots : runSlotsAmid s.speed amid s = .next u)
    (hlast : runBoundary (amid[s.speed]?.getD []) u = .next v) : tickAmid amid s = .next (sampleSound (tickTimers v)) := by
  rw [tickAmid, hslots, bindNext_next, hlast, bindNext_next]

/-- Settles O60: the tick cut at any of its boundaries, its end, and the equations of its parts. -/
theorem operationsActBetweenCyclesOfTick : Obligations.OperationsActBetweenCyclesOfTick := by
  refine ⟨running_iff, fun _ _ => cycle_of_decode, fun _ _ => cycle_of_unknown,
    fun _ => ⟨fun hrun => ⟨slot_of_running hrun, step_of_running hrun⟩, slot_of_not_running⟩,
    tickAmid_nil, fun _ => rfl, fun _ _ => rfl, runSlotsAmid_nil, fun _ _ => rfl,
    fun _ _ hstops => bindNext_of_ne_next hstops _, runSlotsAmid_append, fun key s => ?_,
    fun _ _ _ u hslots hlast => ⟨_, tickAmid_of_slots hslots hlast, tickEnd_spec u⟩,
    fun _ => ⟨rfl, rfl, rfl, fun _ => rfl, fun _ => rfl, fun _ _ => rfl, fun _ _ => rfl⟩⟩
  exact ⟨⟨_, rfl, keyPressed_keyDown_self key s⟩, ⟨_, rfl, keyPressed_setKeyLevel_self s key false⟩⟩

end Sys2Proof.Machine

/-! The scheduler and the host's operations (45_cycle_scheduler). First each operation at a boundary: what it changes and that it
keeps the invariant; then the tick: slots that idle, slots put together, the sound sample, and the self-jump. -/

namespace Sys2Proof.Machine

/-! ### A key press and a key going down (R171, R199) -/

theorem keyPress_of_waiting {s : State} {x : Reg} (k : Key) (hfault : s.fault = .none) (hmode : s.mode = .awaitingKey x) :
    keyPress k s = setMode (writeReg s x (BitVec.ofNat 8 k.val)) .running := by
  simp only [keyPress, hfault, hmode]

theorem keyPress_of_running {s : State} (k : Key) (hmode : s.mode = .running) : keyPress k s = s := by
  cases hfault : s.fault <;> simp only [keyPress, hfault, hmode]

/-- A press completes a pending wait of a machine that is not halted; otherwise it does nothing. -/
theorem keyPress_cases (k : Key) (s : State) :
    (∃ x, s.fault = .none ∧ s.mode = .awaitingKey x ∧
      keyPress k s = setMode (writeReg s x (BitVec.ofNat 8 k.val)) .running) ∨
    ((s.fault ≠ .none ∨ s.mode = .running) ∧ keyPress k s = s) := by
  by_cases hfault : s.fault = .none
  · cases hmode : s.mode with
    | running => exact .inr ⟨.inr rfl, keyPress_of_running k hmode⟩
    | awaitingKey x => exact .inl ⟨x, hfault, rfl, keyPress_of_waiting k hfault hmode⟩
  · exact .inr ⟨.inl hfault, keyPress_of_halted k hfault⟩

theorem completedWait_sameBut (s : State) (x : Reg) (b : Byte) : SameBut [.v, .mode] s (setMode (writeReg s x b) .running) :=
  ((writeReg_sameBut s x b).mono (by simp)).trans ((setMode_sameBut _ .running).mono (by simp))

theorem keyPress_sameBut (k : Key) (s : State) : SameBut [.v, .mode] s (keyPress k s) := by
  obtain ⟨x, _, _, hr⟩ | ⟨_, hr⟩ := keyPress_cases k s
  · exact hr ▸ completedWait_sameBut s x _
  · exact hr.symm ▸ SameBut.refl _ s

theorem keyPress_mem (k : Key) (s : State) : (keyPress k s).mem = s.mem := by
  obtain ⟨_, _, _, hr⟩ | ⟨_, hr⟩ := keyPress_cases k s
  · rw [hr, setMode_mem, writeReg_mem]
  · rw [hr]

theorem keyDown_sameBut (k : Key) (s : State) : SameBut [.v, .mode, .keys] s (keyDown k s) := by
  cases hlevel : keyPressed s k with
  | true => exact (keyDown_of_held hlevel).symm ▸ SameBut.refl _ s
  | false =>
    rw [keyDown_of_up hlevel]
    exact ((setKeyLevel_sameBut s k true).mono (by simp)).trans ((keyPress_sameBut k _).mono (by simp))

theorem keyDown_mem (k : Key) (s : State) : (keyDown k s).mem = s.mem := by
  cases hlevel : keyPressed s k with
  | true => rw [keyDown_of_held hlevel]
  | false => rw [keyDown_of_up hlevel, keyPress_mem, setKeyLevel_mem]

/-! ### The invariant through the operations at a boundary (R203) -/

/-- `speed` and the parameters, with SP and the fault latch over it: what of the core invariant is not memory. -/
def coreInvParts : List Part := [.speed, .config, .fault, .sp]

theorem CoreInv.of_sameBut {ps : List Part} {s t : State} (h : CoreInv s) (hframe : SameBut ps s t)
    (hps : ∀ p ∈ coreInvParts, p ∉ ps) (hmem : Memory.wf t.config.font t.mem = true) : CoreInv t := by
  have hspeed : t.speed = s.speed := hframe .speed (hps _ (by simp [coreInvParts]))
  have hconfig : t.config = s.config := hframe .config (hps _ (by simp [coreInvParts]))
  have hfault : t.fault = s.fault := hframe .fault (hps _ (by simp [coreInvParts]))
  have hsp : t.sp = s.sp := hframe .sp (hps _ (by simp [coreInvParts]))
  exact ⟨hmem, hspeed ▸ h.speed, hconfig ▸ h.config, hfault ▸ hsp ▸ h.overflow, hfault ▸ hsp ▸ h.underflow⟩

theorem SoundSampled.of_sameBut {ps : List Part} {s t : State} (h : SoundSampled s) (hframe : SameBut ps s t)
    (hst : .st ∉ ps) (hsound : .soundOn ∉ ps) : SoundSampled t := by
  have hst' : t.st = s.st := hframe .st hst
  have hsound' : t.soundOn = s.soundOn := hframe .soundOn hsound
  rw [SoundSampled, hst', hsound']
  exact h

theorem acceptOrKeep_setSpeed_coreInv (n : Nat) {s : State} (h : CoreInv s) : CoreInv (acceptOrKeep s (setSpeed n s)) := by
  unfold setSpeed
  split_ifs with hn
  · exact ⟨h.memory, hn, h.config, h.overflow, h.underflow⟩
  · exact h

theorem acceptOrKeep_loadProgram_coreInv (bytes : List Byte) {s : State} (h : CoreInv s) :
    CoreInv (acceptOrKeep s (loadProgram bytes s)) := by
  unfold loadProgram
  split_ifs
  · exact h
  · exact h
  · exact h.of_sameBut (writeBytes_sameBut s _ bytes) (by simp [coreInvParts]) (writeBytes_wf _ bytes h.memory)

/-- Inside a tick the sample of `sound_on` may be out of date, so a step there starts from the core invariant alone. -/
theorem step_inv {s t : State} (h : step s = .next t) (hinv : CoreInv s) : Inv t := by
  obtain ⟨hgate, u, hu, rfl⟩ | ⟨_, rfl⟩ := step_cases h
  · exact sampleSound_inv (cycle_coreInv hu hinv ((gateOpen_iff s).mp hgate).1)
  · exact sampleSound_inv hinv

theorem applyBoundary_coreInv {op : BoundaryOp} {s t : State} (h : applyBoundary op s = .next t) (hinv : CoreInv s) :
    CoreInv t := by
  cases op with
  | step => exact (step_inv h hinv).1
  | reset => cases h; exact (hostReset_inv hinv.speed hinv.config).1
  | loadProgram bytes => cases h; exact acceptOrKeep_loadProgram_coreInv bytes hinv
  | setSpeed n => cases h; exact acceptOrKeep_setSpeed_coreInv n hinv
  | pause => cases h; exact hinv.of_sameBut (pause_sameBut s) (by simp [coreInvParts]) hinv.memory
  | run => cases h; exact hinv.of_sameBut (run_sameBut s) (by simp [coreInvParts]) hinv.memory
  | keyPress k =>
    cases h
    exact hinv.of_sameBut (keyPress_sameBut k s) (by simp [coreInvParts]) (by simpa [keyPress_mem] using hinv.memory)
  | keyDown k =>
    cases h
    exact hinv.of_sameBut (keyDown_sameBut k s) (by simp [coreInvParts]) (by simpa [keyDown_mem] using hinv.memory)
  | keyUp k => cases h; exact hinv.of_sameBut (setKeyLevel_sameBut s k false) (by simp [coreInvParts]) hinv.memory

/-- At a boundary outside a tick the sample is up to date; of the operations only a step and a reset touch ST or the sample. -/
theorem applyBoundary_inv {op : BoundaryOp} {s t : State} (h : applyBoundary op s = .next t) (hinv : Inv s) : Inv t := by
  obtain ⟨hcore, hsound⟩ := hinv
  refine ⟨applyBoundary_coreInv h hcore, ?_⟩
  cases op with
  | step => exact (step_inv h hcore).2
  | reset => cases h; rfl
  | loadProgram bytes => cases h; exact hsound.of_sameBut (acceptOrKeep_loadProgram_sameBut bytes s) (by simp) (by simp)
  | setSpeed n => cases h; exact hsound.of_sameBut (acceptOrKeep_setSpeed_sameBut n s) (by simp) (by simp)
  | pause => cases h; exact hsound.of_sameBut (pause_sameBut s) (by simp) (by simp)
  | run => cases h; exact hsound.of_sameBut (run_sameBut s) (by simp) (by simp)
  | keyPress k => cases h; exact hsound.of_sameBut (keyPress_sameBut k s) (by simp) (by simp)
  | keyDown k => cases h; exact hsound.of_sameBut (keyDown_sameBut k s) (by simp) (by simp)
  | keyUp k => cases h; exact hsound.of_sameBut (setKeyLevel_sameBut s k false) (by simp) (by simp)

/-! ### The invariant through a tick (R195) -/

theorem slot_coreInv {s t : State} (h : slot s = .next t) (hinv : CoreInv s) : CoreInv t := by
  obtain ⟨hrun, hr⟩ | ⟨_, hr⟩ := slot_cases s
  · exact cycle_coreInv (hr.symm.trans h) hinv ((running_iff s).mp hrun).1
  · exact Host.Outcome.next.inj (hr.symm.trans h) ▸ hinv

theorem tickTimers_mem (s : State) : (tickTimers s).mem = s.mem := by
  unfold tickTimers
  split_ifs <;> rfl

theorem tickTimers_coreInv {s : State} (h : CoreInv s) : CoreInv (tickTimers s) :=
  h.of_sameBut (tickTimers_sameBut s) (by simp [coreInvParts]) (by simpa [tickTimers_mem] using h.memory)

/-- The core invariant holds all through a tick; the sample at the end completes it. -/
theorem tickAmid_inv {amid : List (List BoundaryOp)} {s t : State} (h : tickAmid amid s = .next t) (hinv : CoreInv s) :
    Inv t := by
  have hcore : CoreInv t := tickAmid_keeps h (fun _ _ ha hab => slot_coreInv hab ha)
    (fun _ _ _ _ ha hab => applyBoundary_coreInv hab ha) (fun _ ha => (sampleSound_inv (tickTimers_coreInv ha)).1) hinv
  obtain ⟨_, _, _, _, rfl⟩ := tickAmid_cases h
  exact ⟨hcore, rfl⟩

/-- Settles O59: an operation at a boundary keeps the invariant; a tick keeps its core part throughout and ends in a sample. -/
theorem hostOperationsKeepInvariant : Obligations.HostOperationsKeepInvariant := by
  intro op s t hinv h
  cases op with
  | boundary op => exact applyBoundary_inv h hinv
  | tick amid => exact tickAmid_inv h hinv.1

/-! ### The step and the gate (R190, R191, R198) -/

/-- Settles O7: the gate is open, and the cycle behind it is the decoded instruction's. -/
theorem stepRunsDecodedInstruction : Obligations.StepRunsDecodedInstruction := by
  intro s i hfault hmode hdecode
  rw [step_of_gateOpen ((gateOpen_iff s).mpr ⟨hfault, hmode⟩), cycle_of_decode hdecode]

theorem gateClosed_iff (s : State) : gateOpen s = false ↔ s.fault ≠ .none ∨ s.mode ≠ .running := by
  rw [← Bool.not_eq_true, gateOpen_iff, not_and_or]

theorem not_running_iff (s : State) : running s = false ↔ s.fault ≠ .none ∨ s.mode ≠ .running ∨ s.userPaused = true := by
  rw [← Bool.not_eq_true, running_iff, not_and_or, not_and_or, Bool.not_eq_false]

/-! ### The slots of a tick (R195, R197) -/

theorem runSlots_of_slot {s : State} (h : slot s = .next s) (k : Nat) : runSlots k s = .next s := by
  induction k with
  | zero => rfl
  | succ k ih => rw [runSlots, h, bindNext_next, ih]

theorem runSlots_add (j k : Nat) (s : State) : runSlots (j + k) s = bindNext (runSlots j s) (runSlots k) := by
  induction j generalizing s with
  | zero => rw [Nat.zero_add]; rfl
  | succ j ih =>
    rw [Nat.succ_add, runSlots, runSlots, bindNext_assoc]
    exact congrArg (bindNext (slot s)) (funext ih)

theorem tick_of_slots {s t : State} (h : runSlots s.speed s = .next t) : tick s = .next (sampleSound (tickTimers t)) := by
  rw [tick, h, bindNext_next]

theorem tick_of_not_running {s : State} (h : running s = false) : tick s = .next (sampleSound s) := by
  rw [tick_of_slots (runSlots_of_slot (slot_of_not_running h) s.speed), tickTimers_of_not_running h]

/-- Settles O9: behind a closed gate a step is the sample alone, and so is a tick where RUNNING does not hold. -/
theorem nothingRunsBehindClosedGate : Obligations.NothingRunsBehindClosedGate := fun s =>
  ⟨fun h => ⟨_, step_of_gateClosed ((gateClosed_iff s).mpr h), rfl, sampleSound_sameBut s⟩,
    fun h => ⟨_, tick_of_not_running ((not_running_iff s).mpr h), rfl, sampleSound_sameBut s⟩⟩

/-- Settles O42: the end of a tick, behind its slots. -/
theorem tickDecrementsOnceIfRunning : Obligations.TickDecrementsOnceIfRunning :=
  fun _ t hslots => ⟨_, tick_of_slots hslots, tickEnd_spec t⟩

/-- Settles O43: the further slots start behind a closed gate, where each is idle. -/
theorem slotsIdleAfterKeyWaitOrFault : Obligations.SlotsIdleAfterKeyWaitOrFault := by
  intro j k s t hslots hclosed
  have hidle : slot t = .next t := slot_of_not_running (running_of_gateClosed ((gateClosed_iff t).mpr hclosed))
  rw [runSlots_add, hslots, bindNext_next, runSlots_of_slot hidle]

/-! ### A jump to itself (R193) -/

/-- RUNNING, with PC at a jump to its own address. -/
def AtSelfJump (s : State) : Prop :=
  running s = true ∧ decode s.config.strictLowNibble (fetchWord s) = .instr (.jp s.pc)

/-- The jump takes back the advance of PC, so the slot changes nothing. -/
theorem slot_of_atSelfJump {s : State} (h : AtSelfJump s) : slot s = .next s := by
  obtain ⟨hrun, hjump⟩ := h
  rw [slot_of_running hrun, cycle_of_decode hjump]
  rfl

theorem tick_of_atSelfJump {s : State} (h : AtSelfJump s) : tick s = .next (sampleSound (tickTimers s)) :=
  tick_of_slots (runSlots_of_slot (slot_of_atSelfJump h) s.speed)

/-- The gate, the user pause and the fetched word depend neither on the timers nor on the sample. -/
theorem atSelfJump_afterTick {s : State} (h : AtSelfJump s) : AtSelfJump (sampleSound (tickTimers s)) := by
  rw [tickTimers_of_running h.1]
  exact h

theorem runHost_ticks_atSelfJump (n : Nat) {s : State} (h : AtSelfJump s) :
    ∃ t, runHost (List.replicate n (.tick [])) s = .next t ∧ t.dt.toNat = s.dt.toNat - n ∧ t.st.toNat = s.st.toNat - n ∧
      SameBut [.dt, .st, .soundOn] s t := by
  induction n generalizing s with
  | zero => exact ⟨s, rfl, rfl, rfl, SameBut.refl _ s⟩
  | succ n ih =>
    have hfirst : applyHost (.tick []) s = .next (sampleSound (tickTimers s)) := (tickAmid_nil s).trans (tick_of_atSelfJump h)
    obtain ⟨hframe, hdown, _, _⟩ := tickEnd_spec s
    obtain ⟨hdt, hst⟩ := hdown h.1
    obtain ⟨t, hrest, hdts, hsts, hframes⟩ := ih (atSelfJump_afterTick h)
    refine ⟨t, ?_, by omega, by omega, hframe.trans hframes⟩
    rw [List.replicate_succ, runHost, hfirst, bindNext_next, hrest]

/-- Settles O44, by induction on the number of ticks: each leads to the self-jump again, one lower in each timer. -/
theorem idleLoopCountsTimersDown : Obligations.IdleLoopCountsTimersDown :=
  fun n _ hrun hjump => runHost_ticks_atSelfJump n ⟨hrun, hjump⟩

/-! ### The host's operations, one by one (R171, R199, R201, R202) -/

theorem keyPressed_setKeyLevel (s : State) (k j : Key) (down : Bool) :
    keyPressed (setKeyLevel s k down) j = if j = k then down else keyPressed s j := by
  by_cases h : j = k
  · rw [if_pos h, h, keyPressed_setKeyLevel_self]
  · have hne : k.val ≠ j.val := fun e => h (Fin.ext e.symm)
    rw [if_neg h, keyPressed, setKeyLevel_keys, Vector.getElem_set_ne _ _ hne, keyPressed]

/-- The register of a completed wait holds the key code (R199). -/
theorem keyPress_completes_wait {s : State} {x : Reg} (k : Key) (hfault : s.fault = .none) (hmode : s.mode = .awaitingKey x) :
    (readReg (keyPress k s) x).toNat = k.val ∧ (keyPress k s).mode = .running ∧ SameRegsBut [x] s (keyPress k s) ∧
      SameBut [.v, .mode] s (keyPress k s) := by
  have hcode : (BitVec.ofNat 8 k.val).toNat = k.val := Nat.mod_eq_of_lt (by omega)
  rw [keyPress_of_waiting k hfault hmode, readReg_setMode, readReg_writeReg_self]
  exact ⟨hcode, rfl, writeReg_sameRegsBut_singleton s x _, completedWait_sameBut s x _⟩

/-- Settles O45: what a press completes, what it leaves, and the key levels of the reference Input. -/
theorem keyPressCompletesWait : Obligations.KeyPressCompletesWait := by
  refine fun k s => ⟨fun x => keyPress_completes_wait k, fun hidle => ?_, keyDown_of_held, fun hup => ?_,
    ⟨setKeyLevel_sameBut s k false, fun j => keyPressed_setKeyLevel s k j false⟩, rfl, rfl, rfl⟩
  · obtain hhalted | hrunning := hidle
    · exact keyPress_of_halted k hhalted
    · exact keyPress_of_running k hrunning
  · exact ⟨setKeyLevel s k true, keyDown_of_up hup, setKeyLevel_sameBut s k true, fun j => keyPressed_setKeyLevel s k j true⟩

theorem setSpeed_of_pos {n : Nat} (h : 1 ≤ n) (s : State) : setSpeed n s = .ok { s with speed := n } := if_pos h

theorem setSpeed_of_lt_one {n : Nat} (h : n < 1) (s : State) : setSpeed n s = .error .speedBelowOne := if_neg (by omega)

theorem applyHost_setSpeed (n : Nat) (s : State) :
    applyHost (.boundary (.setSpeed n)) s = .next (acceptOrKeep s (setSpeed n s)) := rfl

/-- Settles O46: each accepted operation is the write of one field. -/
theorem pauseRunAndSpeed : Obligations.PauseRunAndSpeed := by
  refine fun n s => ⟨⟨rfl, pause_sameBut s, rfl⟩, ⟨rfl, run_sameBut s, rfl⟩, fun hpos => ?_, fun hzero => ?_⟩
  · have hframe := acceptOrKeep_setSpeed_sameBut n s
    rw [setSpeed_of_pos hpos] at hframe
    exact ⟨_, setSpeed_of_pos hpos s, by rw [applyHost_setSpeed, setSpeed_of_pos hpos]; rfl, rfl, hframe⟩
  · exact ⟨setSpeed_of_lt_one hzero s, by rw [applyHost_setSpeed, setSpeed_of_lt_one hzero]; rfl⟩

/-! ### The sound sample (R204) -/

theorem audioEvent_start_iff (s t : State) : audioEvent s t = some .start ↔ s.soundOn = false ∧ t.soundOn = true := by
  cases hs : s.soundOn <;> cases ht : t.soundOn <;> simp [audioEvent, hs, ht]

theorem audioEvent_stop_iff (s t : State) : audioEvent s t = some .stop ↔ s.soundOn = true ∧ t.soundOn = false := by
  cases hs : s.soundOn <;> cases ht : t.soundOn <;> simp [audioEvent, hs, ht]

/-- Settles O50: each of the four ends in a sample, a reset in the sample of a cleared ST. -/
theorem soundFollowsSoundTimer : Obligations.SoundFollowsSoundTimer := by
  refine ⟨fun s t h => ?_, fun s t => ⟨audioEvent_start_iff s t, audioEvent_stop_iff s t⟩⟩
  obtain hstep | htick | ⟨_, hamid⟩ | hreset := h
  · obtain ⟨_, _, _, rfl⟩ | ⟨_, rfl⟩ := step_cases hstep <;> rfl
  · obtain ⟨_, _, rfl⟩ := tick_cases htick
    rfl
  · obtain ⟨_, _, _, _, rfl⟩ := tickAmid_cases hamid
    rfl
  · cases hreset
    rfl

end Sys2Proof.Machine

/-! The recorded fault (60_exceptions R223, R224): it closes the gate of every cycle, and of the operations that open a closed gate
a key press does nothing on a halted machine. -/

namespace Sys2Proof.Machine

theorem gateOpen_of_halted {s : State} (h : s.fault ≠ .none) : gateOpen s = false :=
  (gateClosed_iff s).mpr (.inl h)

/-- On a halted machine the reset alone opens the gate (R224, R199). -/
theorem leavesGateClosed_iff_of_halted {s : State} (h : s.fault ≠ .none) (op : BoundaryOp) :
    LeavesGateClosed s op ↔ op ≠ .reset :=
  and_iff_left fun hnone => absurd hnone h

/-- Settles O54: a recorded fault closes the gate, and no operation but a reset opens the gate of a halted machine. -/
theorem onlyResetLeavesHalt : Obligations.OnlyResetLeavesHalt := by
  intro ops s hfault hops
  refine runHost_gateClosed (gateOpen_of_halted hfault) fun op ho b hb => ?_
  exact (leavesGateClosed_iff_of_halted hfault b).mpr fun hreset => hops op ho (hreset ▸ hb)

end Sys2Proof.Machine

/-! Reset, power-on and the program load (70_reset_and_hazards R260, R261, R264), and what alone leaves a halt or a key-wait. -/

namespace Sys2Proof.Machine

/-! ### The reset contents of memory (R40, R56) -/

theorem resetByte_glyphs (font : Font) {k : Nat} (hk : k < 80) :
    resetByte font (BitVec.ofNat 12 (0x050 + k)).toNat = font[k] := by
  have haddr : (BitVec.ofNat 12 (0x050 + k)).toNat = 0x050 + k := Nat.mod_eq_of_lt (by omega)
  have hinside : 0x050 ≤ 0x050 + k ∧ 0x050 + k < 0x0A0 := by omega
  rw [haddr, resetByte, dif_pos hinside]
  congr 1
  omega

theorem resetByte_outside_glyphs (font : Font) {a : Nat} (h : a < 0x050 ∨ 0x0A0 ≤ a) : resetByte font a = 0 :=
  dif_neg (by omega)

theorem font_getElem_of_legal {c : Config} (h : c.legal = true) (k : Fin 5) : c.font[k.val] = digitZeroGlyph[k.val] := by
  simp only [Config.legal, fontLegal, Bool.and_eq_true, decide_eq_true_eq] at h
  exact h.2 k

/-! ### Reset (R260) -/

/-- After a reset no byte is listed, so each reads as its reset contents. -/
theorem readByte_hostReset (s : State) (a : Addr) : readByte (hostReset s) a = resetByte s.config.font a.toNat := rfl

theorem readReg_hostReset (s : State) (x : Reg) : readReg (hostReset s) x = 0 := Vector.getElem_replicate x.isLt

theorem hostReset_stack_getElem (s : State) (k : Fin 16) : (hostReset s).stack[k.val] = 0x000#12 :=
  Vector.getElem_replicate k.isLt

/-- The parts R260 gives a reset value. -/
def resetParts : List Part := [.v, .i, .pc, .stack, .sp, .dt, .st, .mode, .userPaused, .fault, .soundOn, .mem]

theorem hostReset_sameBut (s : State) : SameBut resetParts s (hostReset s) := by
  intro p hp
  cases p with
  | speed | fb | keys | draws | config => rfl
  | _ => simp [resetParts] at hp

theorem hostReset_hostReset (s : State) : hostReset (hostReset s) = hostReset s := rfl

/-! ### What ends a halt or a key-wait (R199, R224) -/

theorem runHost_singleton (op : HostOp) (s : State) : runHost [op] s = applyHost op s := bindNext_pure _

/-- A frame of a run of one operation, read off the state that the operation answers. -/
theorem sameBut_of_runHost_singleton {ps : List Part} {op : HostOp} {s t : State} (h : applyHost op s = .next t)
    (hrun : Answers (SameBut ps s) (runHost [op] s)) : SameBut ps s t := by
  obtain ⟨u, hu, hframe⟩ := hrun
  rw [runHost_singleton, h] at hu
  exact Host.Outcome.next.inj hu ▸ hframe

theorem fault_cleared_only_by_reset {op : HostOp} {s t : State} (h : applyHost op s = .next t) (hfault : s.fault ≠ .none)
    (hcleared : t.fault = .none) : .reset ∈ op.boundaryOps := by
  by_contra hno
  have hframe := sameBut_of_runHost_singleton h (onlyResetLeavesHalt [op] s hfault (by simpa using hno))
  have hkept : t.fault = s.fault := hframe .fault (by simp)
  exact hfault (hkept ▸ hcleared)

theorem wait_ended_only_by_reset_or_key {op : HostOp} {s t : State} {x : Reg} (h : applyHost op s = .next t)
    (hwait : s.mode = .awaitingKey x) (hended : t.mode ≠ .awaitingKey x) :
    .reset ∈ op.boundaryOps ∨ ∃ k, .keyPress k ∈ op.boundaryOps ∨ .keyDown k ∈ op.boundaryOps := by
  by_contra hno
  push Not at hno
  have hframe := sameBut_of_runHost_singleton h (keyWaitBlocksUntilKeyPress [op] s x hwait (by simpa using hno))
  have hkept : t.mode = s.mode := hframe .mode (by simp)
  exact hended (hkept.trans hwait)

/-- Settles O48: the reset state read part by part, and the frames of the runs of one operation that leave a halt or a wait. -/
theorem resetRestoresCore : Obligations.ResetRestoresCore := by
  refine ⟨fun s => ⟨hostReset s, rfl, readReg_hostReset s, rfl, rfl, hostReset_stack_getElem s, rfl, rfl, rfl, rfl, rfl, rfl, rfl,
    fun _ => resetByte_outside_glyphs s.config.font, fun _ => resetByte_glyphs s.config.font, fun hlegal k => ?_,
    hostReset_sameBut s⟩, fun _ _ _ => fault_cleared_only_by_reset, fun _ _ _ _ => wait_ended_only_by_reset_or_key⟩
  rw [readByte_hostReset, resetByte_glyphs _ (by omega), font_getElem_of_legal hlegal]

/-! ### Power-on (R261) -/

/-- Settles O49: power-on is a reset, which a second reset does not change; `State.reset` is one with the default font. -/
theorem powerOnIsSpeedInitThenReset : Obligations.PowerOnIsSpeedInitThenReset :=
  ⟨fun _ _ => ⟨rfl, rfl, rfl, rfl, congrArg Host.Outcome.next (hostReset_hostReset _)⟩, powerOn_defaultConfig.symm, rfl, rfl, rfl,
    rfl, fun _ => resetByte_glyphs defaultFont, fun _ => resetByte_outside_glyphs defaultFont⟩

/-! ### The program load (R264) -/

theorem loadProgram_of_length_zero {bytes : List Byte} (h : bytes.length = 0) (s : State) :
    loadProgram bytes s = .error .emptyProgram := if_pos h

theorem loadProgram_of_oversized {bytes : List Byte} (h : 3584 < bytes.length) (s : State) :
    loadProgram bytes s = .error .oversizedProgram := by
  rw [loadProgram, if_neg (by omega), if_pos h]

theorem loadProgram_of_fits {bytes : List Byte} (hpos : 1 ≤ bytes.length) (hfits : bytes.length ≤ 3584) (s : State) :
    loadProgram bytes s = .ok (writeBytes s 0x200#12 bytes) := by
  rw [loadProgram, if_neg (by omega), if_neg (by omega)]

theorem applyHost_loadProgram (bytes : List Byte) (s : State) :
    applyHost (.boundary (.loadProgram bytes)) s = .next (acceptOrKeep s (loadProgram bytes s)) := rfl

section
variable {bytes : List Byte} (hfits : bytes.length ≤ 3584) (s : State)
include hfits

/-- A program that fits ends at 0xFFF at the latest, so no address of it wraps. -/
theorem readByte_program {k : Nat} (hk : k < bytes.length) :
    readByte (writeBytes s 0x200#12 bytes) (BitVec.ofNat 12 (0x200 + k)) = bytes[k] := by
  have hdistance : (BitVec.ofNat 12 (0x200 + k) - 0x200#12).toNat = k := by
    simp only [BitVec.toNat_sub, BitVec.toNat_ofNat]
    omega
  rw [readByte_writeBytes s _ _ bytes (by omega), hdistance, List.getElem?_eq_getElem hk, Option.getD_some]

/-- Below 0x200 the distance from 0x200 wraps to 3584 or more. -/
theorem readByte_outside_program {a : Addr} (hout : a.toNat < 0x200 ∨ 0x200 + bytes.length ≤ a.toNat) :
    readByte (writeBytes s 0x200#12 bytes) a = readByte s a := by
  have hfar : bytes.length ≤ (a - 0x200#12).toNat := by
    simp only [BitVec.toNat_sub, BitVec.toNat_ofNat]
    omega
  rw [readByte_writeBytes s _ a bytes (by omega), List.getElem?_eq_none hfar, Option.getD_none]

end

/-- A rejected operation of a run changes nothing (R226). -/
theorem applyHost_loadProgram_of_error {bytes : List Byte} {s : State} {e : HostReject} (h : loadProgram bytes s = .error e) :
    applyHost (.boundary (.loadProgram bytes)) s = .next s := by
  rw [applyHost_loadProgram, h, acceptOrKeep]

/-- Settles O47: the two rejections, and the bytes of the one write. -/
theorem loadProgramWritesExactlyItsBytes : Obligations.LoadProgramWritesExactlyItsBytes := by
  refine fun bytes s => ⟨fun hrejected => ?_, fun ⟨hpos, hfits⟩ => ?_⟩
  · obtain ⟨e, he⟩ : ∃ e, loadProgram bytes s = .error e :=
      hrejected.elim (fun h => ⟨_, loadProgram_of_length_zero h s⟩) fun h => ⟨_, loadProgram_of_oversized h s⟩
    exact ⟨⟨e, he⟩, applyHost_loadProgram_of_error he⟩
  · have hload := loadProgram_of_fits hpos hfits s
    exact ⟨_, hload, by rw [applyHost_loadProgram, hload, acceptOrKeep], fun _ => readByte_program hfits s,
      fun _ => readByte_outside_program hfits s, writeBytes_sameBut s _ bytes⟩

end Sys2Proof.Machine
